-- ==== Sys2Proof/Word.lean ====
section
/-! DEFINITION. The fixed widths of 00_scope.md rule R10. -/

namespace Sys2Proof

/-- `u8`: command bytes, event types, node identifiers, battery percentages, raw RSSI bytes. -/
abbrev Byte := BitVec 8

/-- `u16`: CRC values, STATUS, and the bit pattern of the `i16` RSSI value. -/
abbrev Half := BitVec 16

/-- `u32`: time values, counters and configuration values. -/
abbrev Word := BitVec 32

end Sys2Proof
end

