-- ==== Sys2Proof/Syntax.lean ====
section
/-! DEFINITION. The commands of the block: one constructor per row of the opcode map
(30_encoding.md rule R117). Operands are decoded values; the length field of `FL8` and `FL16` is the
length of the data (rule R121). -/

namespace Sys2Proof

/-- The 29 commands of rule R117, in the table's order. -/
inductive Instr where
  | nop
  | statusRead
  | statusClear (mask : Half)
  | cntRead (idx : Byte)
  | timeRead
  | cfgRead (idx : Byte)
  | cfgWrite (idx : Byte) (val : Word)
  | crc16 (data : List Byte)
  | pktBuild (nodeId : Byte) (timestamp : Word) (eventType batteryLevel : Byte)
  | pktSerialize
  | pktDeserialize (frame : List Byte)
  | pktValidate
  | radioInit
  | radioTransmit (data : List Byte)
  | radioPoll
  | radioReceive (maxLen : Byte)
  | radioRssi
  | radioSleep
  | radioWake
  | radioRxStart
  | pwrNotify
  | pwrTick (battery : Byte)
  | evqPush (eventType : Byte)
  | evqPop
  | queueStatus
  | pipeBuild (battery : Byte)
  | pipeSend
  | pipeRecv
  | rxqPop
deriving DecidableEq, Repr

end Sys2Proof
end

