-- ==== Sys2Proof/WellFormed.lean ====
section
/-! DEFINITION. Which terms of `Instr` the encoding of 30_encoding.md rule R110 can carry. -/

namespace Sys2Proof

/-- The checks: `FL16` data fits its 16-bit length field (rule R155: at most 65535 bytes), `FL8` data
fits its 8-bit length field (rule R200: at most 255 bytes; length 0 is encodable and answered
`E_ARG`), and an `F9` frame has exactly 9 bytes. Every other operand fits by its type. -/
def Instr.wellFormed : Instr → Bool
  | .crc16 data => decide (data.length ≤ 65535)
  | .radioTransmit data => decide (data.length ≤ 255)
  | .pktDeserialize frame => decide (frame.length = 9)
  | .nop => true
  | .statusRead => true
  | .statusClear _ => true
  | .cntRead _ => true
  | .timeRead => true
  | .cfgRead _ => true
  | .cfgWrite _ _ => true
  | .pktBuild _ _ _ _ => true
  | .pktSerialize => true
  | .pktValidate => true
  | .radioInit => true
  | .radioPoll => true
  | .radioReceive _ => true
  | .radioRssi => true
  | .radioSleep => true
  | .radioWake => true
  | .radioRxStart => true
  | .pwrNotify => true
  | .pwrTick _ => true
  | .evqPush _ => true
  | .evqPop => true
  | .queueStatus => true
  | .pipeBuild _ => true
  | .pipeSend => true
  | .pipeRecv => true
  | .rxqPop => true

end Sys2Proof
end

