-- ==== Sys2Proof/Decode.lean ====
section
/-! DEFINITION. Byte order, the opcode map, command length, decoder and encoder
(00_scope.md rule R13; 30_encoding.md rules R110 to R118). -/

namespace Sys2Proof

/-! ## Byte order (00_scope.md rule R13; 20_memory.md rules R82, R83) -/

/-- `be16(v) = [v[15:8], v[7:0]]`. -/
def be16 (v : Half) : List Byte := [v.extractLsb' 8 8, v.extractLsb' 0 8]

/-- `be32(v) = [v[31:24], v[23:16], v[15:8], v[7:0]]`. -/
def be32 (v : Word) : List Byte :=
  [v.extractLsb' 24 8, v.extractLsb' 16 8, v.extractLsb' 8 8, v.extractLsb' 0 8]

/-- `from_be16(b0, b1) = (zext_16(b0) << 8) | zext_16(b1)`. -/
def fromBe16 (b0 b1 : Byte) : Half := (b0.setWidth 16 <<< 8) ||| b1.setWidth 16

/-- The 4-byte analogue of `from_be16`. -/
def fromBe32 (b0 b1 b2 b3 : Byte) : Word :=
  (b0.setWidth 32 <<< 24) ||| (b1.setWidth 32 <<< 16) ||| (b2.setWidth 32 <<< 8) ||| b3.setWidth 32

/-! ## The opcode map (rule R117) -/

/-- The operand layouts of rule R110. -/
inductive Format where
  | F0 | F1 | F2 | F5 | F7 | F9 | FL8 | FL16
deriving DecidableEq, Repr

/-- The rows of rule R117. -/
inductive Opcode where
  | nop | statusRead | statusClear | cntRead | timeRead | cfgRead | cfgWrite
  | crc16
  | pktBuild | pktSerialize | pktDeserialize | pktValidate
  | radioInit | radioTransmit | radioPoll | radioReceive | radioRssi | radioSleep | radioWake | radioRxStart
  | pwrNotify | pwrTick
  | evqPush | evqPop | queueStatus | pipeBuild | pipeSend | pipeRecv | rxqPop
deriving DecidableEq, Repr

/-- The opcode byte of each row of rule R117. -/
def opcodeByte : Opcode → Byte
  | .nop => 0x00
  | .statusRead => 0x01
  | .statusClear => 0x02
  | .cntRead => 0x03
  | .timeRead => 0x04
  | .cfgRead => 0x05
  | .cfgWrite => 0x06
  | .crc16 => 0x10
  | .pktBuild => 0x20
  | .pktSerialize => 0x21
  | .pktDeserialize => 0x22
  | .pktValidate => 0x23
  | .radioInit => 0x30
  | .radioTransmit => 0x31
  | .radioPoll => 0x32
  | .radioReceive => 0x33
  | .radioRssi => 0x34
  | .radioSleep => 0x35
  | .radioWake => 0x36
  | .radioRxStart => 0x37
  | .pwrNotify => 0x40
  | .pwrTick => 0x41
  | .evqPush => 0x50
  | .evqPop => 0x51
  | .queueStatus => 0x52
  | .pipeBuild => 0x53
  | .pipeSend => 0x54
  | .pipeRecv => 0x55
  | .rxqPop => 0x56

/-- The format of each row of rule R117. -/
def opcodeFormat : Opcode → Format
  | .nop => .F0
  | .statusRead => .F0
  | .statusClear => .F2
  | .cntRead => .F1
  | .timeRead => .F0
  | .cfgRead => .F1
  | .cfgWrite => .F5
  | .crc16 => .FL16
  | .pktBuild => .F7
  | .pktSerialize => .F0
  | .pktDeserialize => .F9
  | .pktValidate => .F0
  | .radioInit => .F0
  | .radioTransmit => .FL8
  | .radioPoll => .F0
  | .radioReceive => .F1
  | .radioRssi => .F0
  | .radioSleep => .F0
  | .radioWake => .F0
  | .radioRxStart => .F0
  | .pwrNotify => .F0
  | .pwrTick => .F1
  | .evqPush => .F1
  | .evqPop => .F0
  | .queueStatus => .F0
  | .pipeBuild => .F1
  | .pipeSend => .F0
  | .pipeRecv => .F0
  | .rxqPop => .F0

/-- Every row of rule R117. -/
def allOpcodes : List Opcode :=
  [.nop, .statusRead, .statusClear, .cntRead, .timeRead, .cfgRead, .cfgWrite, .crc16,
   .pktBuild, .pktSerialize, .pktDeserialize, .pktValidate,
   .radioInit, .radioTransmit, .radioPoll, .radioReceive, .radioRssi, .radioSleep, .radioWake, .radioRxStart,
   .pwrNotify, .pwrTick, .evqPush, .evqPop, .queueStatus, .pipeBuild, .pipeSend, .pipeRecv, .rxqPop]

/-- The row whose opcode byte is `b`; `none` for an unassigned byte. The whole byte decides (rules R111,
R117, R118). -/
def opcodeOf (b : Byte) : Option Opcode := allOpcodes.find? fun o => opcodeByte o == b

/-! ## Command length (rule R113) -/

/-- The length of the command that begins with the bytes `buf`, a byte not yet there read as 0. -/
def commandLength (buf : List Byte) : Nat :=
  match opcodeOf (buf.getD 0 0) with
  | none => 1
  | some o =>
    match opcodeFormat o with
    | .F0 => 1
    | .F1 => 2
    | .F2 => 3
    | .F5 => 6
    | .F7 => 8
    | .F9 => 10
    | .FL8 => 2 + (buf.getD 1 0).toNat
    | .FL16 => 3 + (fromBe16 (buf.getD 1 0) (buf.getD 2 0)).toNat

/-- `complete(buf)` of rule R113. While a length field has not arrived it reads as 0 here, and the buffer
is then shorter than the least length of its format, so it is not complete. -/
def complete (buf : List Byte) : Bool := buf.length == commandLength buf

/-! ## Decoder (rules R116, R117) -/

/-- Why bytes give no command. -/
inductive DecodeError where
  /-- The bytes end before the command does (rule R114). -/
  | incomplete
  /-- The opcode byte is not in the opcode map (rule R118). -/
  | illegalOpcode (op : Byte)
deriving DecidableEq, Repr

/-- Format `F1`: one `u8` operand. -/
def decodeF1 (mk : Byte → Instr) : List Byte → Except DecodeError (Instr × List Byte)
  | a :: rest => .ok (mk a, rest)
  | [] => .error .incomplete

/-- Format `F2`: one big-endian `u16` operand. -/
def decodeF2 (mk : Half → Instr) : List Byte → Except DecodeError (Instr × List Byte)
  | a :: b :: rest => .ok (mk (fromBe16 a b), rest)
  | _ => .error .incomplete

/-- Format `F5`: `idx:u8`, then `val:u32`, big-endian. -/
def decodeF5 (mk : Byte → Word → Instr) : List Byte → Except DecodeError (Instr × List Byte)
  | i :: a :: b :: c :: d :: rest => .ok (mk i (fromBe32 a b c d), rest)
  | _ => .error .incomplete

/-- Format `F7`: `node_id:u8`, `timestamp:u32` big-endian, `event_type:u8`, `battery_level:u8`. -/
def decodeF7 (mk : Byte → Word → Byte → Byte → Instr) :
    List Byte → Except DecodeError (Instr × List Byte)
  | n :: a :: b :: c :: d :: e :: l :: rest => .ok (mk n (fromBe32 a b c d) e l, rest)
  | _ => .error .incomplete

/-- A given number of data bytes, in order (formats `F9`, `FL8` and `FL16`). -/
def decodeData (mk : List Byte → Instr) (len : Nat) (bs : List Byte) :
    Except DecodeError (Instr × List Byte) :=
  if len ≤ bs.length then .ok (mk (bs.take len), bs.drop len) else .error .incomplete

/-- Format `FL8`: `len:u8`, then `len` data bytes. -/
def decodeFL8 (mk : List Byte → Instr) : List Byte → Except DecodeError (Instr × List Byte)
  | n :: rest => decodeData mk n.toNat rest
  | [] => .error .incomplete

/-- Format `FL16`: `len:u16` big-endian, then `len` data bytes. -/
def decodeFL16 (mk : List Byte → Instr) : List Byte → Except DecodeError (Instr × List Byte)
  | a :: b :: rest => decodeData mk (fromBe16 a b).toNat rest
  | _ => .error .incomplete

/-- The operands of a row of rule R117, read from the bytes after the opcode. -/
def decodeOperands (o : Opcode) (bs : List Byte) : Except DecodeError (Instr × List Byte) :=
  match o with
  | .nop => .ok (.nop, bs)
  | .statusRead => .ok (.statusRead, bs)
  | .statusClear => decodeF2 .statusClear bs
  | .cntRead => decodeF1 .cntRead bs
  | .timeRead => .ok (.timeRead, bs)
  | .cfgRead => decodeF1 .cfgRead bs
  | .cfgWrite => decodeF5 .cfgWrite bs
  | .crc16 => decodeFL16 .crc16 bs
  | .pktBuild => decodeF7 .pktBuild bs
  | .pktSerialize => .ok (.pktSerialize, bs)
  | .pktDeserialize => decodeData .pktDeserialize 9 bs
  | .pktValidate => .ok (.pktValidate, bs)
  | .radioInit => .ok (.radioInit, bs)
  | .radioTransmit => decodeFL8 .radioTransmit bs
  | .radioPoll => .ok (.radioPoll, bs)
  | .radioReceive => decodeF1 .radioReceive bs
  | .radioRssi => .ok (.radioRssi, bs)
  | .radioSleep => .ok (.radioSleep, bs)
  | .radioWake => .ok (.radioWake, bs)
  | .radioRxStart => .ok (.radioRxStart, bs)
  | .pwrNotify => .ok (.pwrNotify, bs)
  | .pwrTick => decodeF1 .pwrTick bs
  | .evqPush => decodeF1 .evqPush bs
  | .evqPop => .ok (.evqPop, bs)
  | .queueStatus => .ok (.queueStatus, bs)
  | .pipeBuild => decodeF1 .pipeBuild bs
  | .pipeSend => .ok (.pipeSend, bs)
  | .pipeRecv => .ok (.pipeRecv, bs)
  | .rxqPop => .ok (.rxqPop, bs)

/-- The first command of a byte sequence and the bytes after it, or the reason there is none. -/
def decode : List Byte → Except DecodeError (Instr × List Byte)
  | [] => .error .incomplete
  | op :: bs =>
    match opcodeOf op with
    | none => .error (.illegalOpcode op)
    | some o => decodeOperands o bs

/-! ## Encoder (rules R110, R117, R121) -/

/-- The row of rule R117 a command belongs to. -/
def instrOpcode : Instr → Opcode
  | .nop => .nop
  | .statusRead => .statusRead
  | .statusClear _ => .statusClear
  | .cntRead _ => .cntRead
  | .timeRead => .timeRead
  | .cfgRead _ => .cfgRead
  | .cfgWrite _ _ => .cfgWrite
  | .crc16 _ => .crc16
  | .pktBuild _ _ _ _ => .pktBuild
  | .pktSerialize => .pktSerialize
  | .pktDeserialize _ => .pktDeserialize
  | .pktValidate => .pktValidate
  | .radioInit => .radioInit
  | .radioTransmit _ => .radioTransmit
  | .radioPoll => .radioPoll
  | .radioReceive _ => .radioReceive
  | .radioRssi => .radioRssi
  | .radioSleep => .radioSleep
  | .radioWake => .radioWake
  | .radioRxStart => .radioRxStart
  | .pwrNotify => .pwrNotify
  | .pwrTick _ => .pwrTick
  | .evqPush _ => .evqPush
  | .evqPop => .evqPop
  | .queueStatus => .queueStatus
  | .pipeBuild _ => .pipeBuild
  | .pipeSend => .pipeSend
  | .pipeRecv => .pipeRecv
  | .rxqPop => .rxqPop

/-- The bytes after the opcode. -/
def encodeOperands : Instr → List Byte
  | .nop => []
  | .statusRead => []
  | .statusClear mask => be16 mask
  | .cntRead idx => [idx]
  | .timeRead => []
  | .cfgRead idx => [idx]
  | .cfgWrite idx val => idx :: be32 val
  | .crc16 data => be16 (BitVec.ofNat 16 data.length) ++ data
  | .pktBuild nodeId timestamp eventType batteryLevel =>
    nodeId :: (be32 timestamp ++ [eventType, batteryLevel])
  | .pktSerialize => []
  | .pktDeserialize frame => frame
  | .pktValidate => []
  | .radioInit => []
  | .radioTransmit data => BitVec.ofNat 8 data.length :: data
  | .radioPoll => []
  | .radioReceive maxLen => [maxLen]
  | .radioRssi => []
  | .radioSleep => []
  | .radioWake => []
  | .radioRxStart => []
  | .pwrNotify => []
  | .pwrTick battery => [battery]
  | .evqPush eventType => [eventType]
  | .evqPop => []
  | .queueStatus => []
  | .pipeBuild battery => [battery]
  | .pipeSend => []
  | .pipeRecv => []
  | .rxqPop => []

/-- The bytes of a well-formed command, in port order. -/
def encode (i : Instr) : List Byte := opcodeByte (instrOpcode i) :: encodeOperands i

/-! ## Words of the opcode table -/

/-- `n` bytes of a number, the least significant first: the table's numbering, bit 0 being the least
significant bit of the first byte. -/
def tableBytes : Nat → Nat → List Byte
  | 0, _ => []
  | n + 1, w => BitVec.ofNat 8 w :: tableBytes n (w / 256)

/-- The bytes, in port order, of the instruction whose first `nbits` bits are `w` and whose other bits
are 0: the table gives the opcode byte only, so the operand bytes are zeros. -/
def tableCommand (nbits w : Nat) : List Byte :=
  let bs := tableBytes (nbits / 8) w
  let n := commandLength bs
  (bs ++ List.replicate n 0).take n

/-- The instruction the decoder reads from a word of the opcode table. -/
def decodeTableWord (nbits w : Nat) : Option Instr :=
  match decode (tableCommand nbits w) with
  | .ok (i, _) => some i
  | .error _ => none

end Sys2Proof
end

