-- ==== Sys2Proof/Config.lean ====
section
/-! DEFINITION. What a build of the block fixes (00_scope.md rule R9), and the free values: the choices of
the external agents that the spec leaves open (93_implementation_defined.md items 10 to 14). -/

namespace Sys2Proof

/-- `P_VARIANT` (00_scope.md rule R3): `A` register-mapped transceiver, `B` command-protocol transceiver. -/
inductive Variant where
  | A
  | B
deriving DecidableEq, Repr

/-- The configuration registers 0x00 to 0x06 at the widths of 10_state.md rule R50. Bits above a width
read 0 and ignore writes, so they are not stored; register 0x07 is hard-wired and not stored. -/
structure CfgRegs where
  nodeId : Byte
  frequency : Word
  bandwidth : Byte
  spreadingFactor : Byte
  codingRate : Byte
  syncWord : Half
  txPower : Byte
deriving DecidableEq, Repr

/-- The build-time parameters of 00_scope.md rule R9; counts and times are unbounded (log 17). -/
structure Params where
  /-- `P_VARIANT` -/
  variant : Variant
  /-- `P_CRC_POLY` -/
  crcPoly : Half
  /-- `P_CRC_INIT` -/
  crcInit : Half
  /-- `P_CRC_REFIN` -/
  crcRefIn : Bool
  /-- `P_CRC_REFOUT` -/
  crcRefOut : Bool
  /-- `P_CRC_XOROUT` -/
  crcXorOut : Half
  /-- `P_EVQ_CAP` -/
  evqCap : Nat
  /-- `P_TXQ_CAP` -/
  txqCap : Nat
  /-- `P_RXQ_CAP` -/
  rxqCap : Nat
  /-- `P_TX_TIMEOUT_MS` -/
  txTimeoutMs : Nat
  /-- `P_BUSY_RETRY_MAX` -/
  busyRetryMax : Nat
  /-- `P_BOOT_GRACE_MS` -/
  bootGraceMs : Nat
  /-- `P_CRIT_PCT` -/
  critPct : Nat
  /-- `P_IDLE_TIMEOUT_MS` -/
  idleTimeoutMs : Nat
  /-- `P_LIGHT_SLEEP_MAX_MS` -/
  lightSleepMaxMs : Nat
  /-- `P_DEEP_SLEEP_MAX_MS` -/
  deepSleepMaxMs : Nat
  /-- `P_DEBOUNCE_MS` -/
  debounceMs : Nat
  /-- `P_RSSI_MUL` -/
  rssiMul : Int
  /-- `P_RSSI_DIV` -/
  rssiDiv : Int
  /-- `P_RSSI_OFF` -/
  rssiOff : Int
  /-- `P_CFG_RESET[0x00..0x06]` -/
  cfgReset : CfgRegs
  /-- `P_PAYLOAD_LEN`, at the width of register 0x07 (10_state.md rule R50; log 22). -/
  payloadLen : Byte
deriving DecidableEq, Repr

/-- The constraints of 00_scope.md rule R11, and the bound that the 8-bit `busy_samples` of 10_state.md
rule R32 puts on `P_BUSY_RETRY_MAX` (DEDUCED, log 10). A build that breaks one is not refused (logs 18, 21). -/
def Params.wf (p : Params) : Bool :=
  decide (3 < p.critPct) && decide (p.critPct ≤ 100)
    && decide (1 ≤ p.evqCap) && decide (p.evqCap ≤ 255)
    && decide (1 ≤ p.txqCap) && decide (p.txqCap ≤ 255)
    && decide (1 ≤ p.rxqCap) && decide (p.rxqCap ≤ 255)
    && decide (1 ≤ p.busyRetryMax) && decide (p.busyRetryMax ≤ 256)
    && decide (p.rssiDiv ≠ 0) && decide (1 ≤ p.txTimeoutMs)

/-- Every configuration register 0: the value `State.reset` gives `P_CFG_RESET`, which is OPEN
(DESIGN CHOICE, log 3). -/
def Config.zeroCfg : CfgRegs := ⟨0, 0, 0, 0, 0, 0, 0⟩

/-- The values of 00_scope.md rule R9 marked "source" or "decided", for a variant and `P_CFG_RESET`,
which are OPEN. The RSSI map is the variant's. -/
def Config.defaults (v : Variant) (cfgReset : CfgRegs) : Params where
  variant := v
  crcPoly := 0x1021
  crcInit := 0xFFFF
  crcRefIn := false
  crcRefOut := false
  crcXorOut := 0x0000
  evqCap := 10
  txqCap := 5
  rxqCap := 10
  txTimeoutMs := 5000
  busyRetryMax := 100
  bootGraceMs := 10000
  critPct := 5
  idleTimeoutMs := 30000
  lightSleepMaxMs := 60000
  deepSleepMaxMs := 3600000
  debounceMs := 200
  rssiMul := match v with
    | .A => 1
    | .B => -1
  rssiDiv := match v with
    | .A => 1
    | .B => 2
  rssiOff := match v with
    | .A => -157
    | .B => 0
  cfgReset := cfgReset
  payloadLen := 9

/-! ## Agent steps and free values -/

/-- One step of an external agent: the kinds of step of 20_memory.md rule R86, and the reset input of
70_reset_and_hazards.md rule R380 (DEDUCED, log 14). -/
inductive AgentStep where
  /-- The host writes its next command byte. -/
  | hostWrite
  /-- The host takes the response. -/
  | hostRead
  /-- One tick of the millisecond clock (rule R87). -/
  | tick
  /-- The motion-trigger line fires (44_fifo_pipeline.md rule R283). -/
  | trigger
  /-- The radio has received a frame (10_state.md rule R58). -/
  | rxDone (frame : List Byte) (rawRssi : Byte)
  /-- The radio has finished a transmission (10_state.md rule R59). -/
  | txDone
  /-- The reset input is asserted (70_reset_and_hazards.md rule R380). -/
  | powerOnReset
deriving DecidableEq, Repr, Inhabited

/-- The arms of RADIO_WAKE's `case` (42_transceiver.md rule R213). -/
inductive WakeArm where
  | toStandby
  | toReceive
  | noEffect
deriving DecidableEq, Repr, Inhabited

/-- Free: which agent step comes next where `env.sched` lists none (20_memory.md rule R86: "any enabled
step of any agent may be taken next"; log 4). -/
opaque Config.freeStep : Nat → AgentStep

/-- Free: the byte the host writes where `env.hostBytes` lists none (log 6). -/
opaque Config.freeByte : Nat → Byte

/-- Free: `radio.busy` at a sample where `env.busy` lists none (10_state.md rule R60: "under no law";
log 7). -/
opaque Config.freeBusy : Nat → Bool

/-- Free: `radio.present` at a Probe where `env.present` lists none (10_state.md rule R60; log 7). -/
opaque Config.freePresent : Nat → Bool

/-- Free: what RADIO_WAKE does in `Transmitting`, for which 42_transceiver.md rule R213 gives no case
(DESIGN CHOICE, log 11). -/
opaque Config.freeWake : Nat → WakeArm

end Sys2Proof
end

