-- ==== Sys2Proof/Machine/State.lean ====
section
/-! DEFINITION. The state of the block and of its external agents (10_state.md), as plain data, and the
state after reset (70_reset_and_hazards.md rules R380 to R382). -/

namespace Sys2Proof.Machine

/-! ## Stored values -/

/-- The record of 10_state.md rule R40 and 41_codec.md rule R170. -/
structure Packet where
  nodeId : Byte
  timestamp : Word
  eventType : Byte
  batteryLevel : Byte
  crc : Half
deriving DecidableEq, Repr

/-- The W1C bits 2 to 5 of STATUS (10_state.md rule R33). -/
structure Sticky where
  transportFault : Bool
  txTimeoutSeen : Bool
  crcErrSeen : Bool
  overflowSeen : Bool
deriving DecidableEq, Repr

/-- The four counters of 10_state.md rule R51. -/
structure Counters where
  crcErr : Word
  evqDrop : Word
  txqDrop : Word
  rxqDrop : Word
deriving DecidableEq, Repr

/-- `s.radio_mode` (10_state.md rule R47). -/
inductive RadioMode where
  | sleep
  | standby
  | transmitting
  | receivingContinuous
deriving DecidableEq, Repr

/-- `s.pwr_state` (10_state.md rule R46). -/
inductive PwrState where
  | active
  | lightSleep
  | deepSleep
deriving DecidableEq, Repr

/-! ## Radio port -/

/-- The modes `SetMode` commands (42_transceiver.md rule R191). -/
inductive ChipMode where
  | sleep
  | standby
  | tx
  | rxCont
deriving DecidableEq, Repr

/-- The radio ops (42_transceiver.md rule R191: "No other op exists"). -/
inductive RadioOp where
  | probe
  /-- The values of configuration registers 0x01 to 0x07, in order. -/
  | configure (cfg : List Word)
  | writePayload (data : List Byte)
  | setMode (m : ChipMode)
  | readFrame
  | clearIrq
deriving DecidableEq, Repr

/-! ## Status codes -/

/-- The status codes of 60_exceptions.md rule R340. -/
inductive Status where
  | ok
  | eOpcode
  | eArg
  | eEmpty
  | eFull
  | eTimeout
  | eTransport
  | eInit
  | eNotInit
  | eNoFrame
  | eCrc
deriving DecidableEq, Repr

/-! ## Command sequencer -/

/-- The kinds of sleep (10_state.md rule R32). -/
inductive SleepKind where
  | light
  | deep
deriving DecidableEq, Repr

/-- One line of the pseudocode of a command that can suspend (42_transceiver.md, 43_power.md rule R255,
44_fifo_pipeline.md rules R295, R297). -/
inductive Micro where
  /-- `radio(op)`, a result going to `Locals` -/
  | radio (op : RadioOp)
  /-- `to_standby()` (rule R196) -/
  | toStandby
  /-- `radio(Configure([CfgRead(0x01), ..., CfgRead(0x07)]))` (rule R205) -/
  | configure
  /-- `radio(WritePayload(data))` (rule R200) -/
  | writePayload
  /-- `if p = 0: fail(E_INIT)` (rule R205) -/
  | failAbsent
  /-- `s.configured <- 1` (rule R205) -/
  | setConfigured
  /-- `tx_start_ms <- s.now_ms`, then suspend in the transmit wait (rule R200) -/
  | txWait
  /-- `fail(E_TIMEOUT)` (rule R202) -/
  | failTimeout
  /-- `n <- min(len(f), max_len)` and `s.last_rssi <- rssi_dbm(raw)` (rule R208) -/
  | takeFrame (maxLen : Byte)
  /-- `respond(OK, [n] ++ f[0..n-1])` (rule R208) -/
  | respondFrame
  /-- PIPE_RECV after the body of RADIO_RECEIVE (44_fifo_pipeline.md rule R297) -/
  | deliver
  /-- `respond(OK, [])` -/
  | respondOk
  /-- `s.pwr_state <- ...`, `sleep_start_ms <- s.now_ms`, then suspend (43_power.md rule R255) -/
  | enterSleep (kind : SleepKind)
deriving DecidableEq, Repr

/-- The local variables of a running command's rule (10_state.md rule R32): the data to transmit, the
answer `p` of the Probe, the frame read and its raw status byte, and the count `n`. -/
structure Locals where
  data : List Byte
  present : Bool
  frame : List Byte
  raw : Byte
  n : Nat
deriving DecidableEq, Repr

/-- What a suspended command waits for (10_state.md rule R32). -/
inductive Wait where
  /-- In `await_ready()` before `op` is performed, `busySamples` samples taken (rule R194). -/
  | ready (op : RadioOp) (busySamples : Byte)
  /-- In `await_ready()` as the read-back of `SetMode(m)`, `busySamples` samples taken (rule R194). -/
  | readback (m : ChipMode) (busySamples : Byte)
  /-- In the transmit wait (rule R201). -/
  | tx (startMs : Word)
  /-- In the sleep wait of a kind (43_power.md rules R256, R258). -/
  | sleep (kind : SleepKind) (startMs : Word)
deriving DecidableEq, Repr

/-- `s.phase` (10_state.md rule R32). Between steps a command is `Running` only while suspended. `k` is
the position in the command's pseudocode, written as the lines still to run (log 15). -/
inductive Phase where
  | idle
  | running (c : Instr) (k : List Micro) (locals : Locals) (wait : Wait)
deriving DecidableEq, Repr

/-! ## External agents -/

/-- The radio agent (10_state.md rule R57; 42_transceiver.md rule R191). The block's reset does not
reset it (70_reset_and_hazards.md rule R380). -/
structure Radio where
  /-- `radio.irq_tx_done` -/
  irqTxDone : Bool
  /-- `radio.frame` -/
  frame : List Byte
  /-- `radio.raw_rssi` -/
  rawRssi : Byte
  /-- The radio ops performed so far, oldest first: what has been loaded and commanded (log 9). -/
  ops : List RadioOp
deriving DecidableEq, Repr

/-- What the host, the clock, the trigger source and the radio will do next, and what the host has
taken. Each list is the choices to come; where one is empty, the choice is a free value of `Config`
applied to `draws`, which then advances (logs 4, 6, 7). -/
structure Env where
  /-- The agent steps to come (20_memory.md rule R86). -/
  sched : List AgentStep
  /-- The command bytes that wait in the host (30_encoding.md rule R112). -/
  hostBytes : List Byte
  /-- The responses the host has taken, oldest first. -/
  hostGot : List (List Byte)
  /-- `radio.busy` at the samples to come (10_state.md rule R60). -/
  busy : List Bool
  /-- `radio.present` at the Probes to come (10_state.md rule R60). -/
  present : List Bool
  /-- How many free values have been drawn. -/
  draws : Nat
deriving DecidableEq, Repr

/-! ## The state -/

/-- The whole state: the block's (10_state.md rules R32 to R55), its build-time parameters (00_scope.md
rule R9) and the external agents' (10_state.md rules R57 to R61). -/
structure State where
  /-- The build-time parameters; no step writes them (log 1). -/
  par : Params
  phase : Phase
  sticky : Sticky
  pkt : Packet
  lastRssi : Half
  nowMs : Word
  lastActivityMs : Word
  lastAcceptMs : Word
  anyAccepted : Bool
  extPowered : Bool
  battSampled : Bool
  graceDone : Bool
  pwrState : PwrState
  radioMode : RadioMode
  configured : Bool
  rxPending : Bool
  cfg : CfgRegs
  counters : Counters
  evq : List Byte
  txq : List Packet
  rxq : List Packet
  cmdBuf : List Byte
  resp : Option (List Byte)
  radio : Radio
  env : Env
deriving DecidableEq, Repr

/-! ## Stops -/

/-- A fault that stops the machine: there is none. The block has no trap (60_exceptions.md rule R344);
every error is a status byte in a response, and the machine goes on. -/
inductive Fault where
deriving DecidableEq, Repr

/-- A refusal by the model. -/
inductive Refusal where
  /-- Raised by an arm of `exec` whose command has no meaning yet; no arm raises it. Safe: the model
  stops where the hardware goes on. -/
  | notModelled (mnemonic : String)
deriving DecidableEq, Repr

/-! ## Reset -/

/-- The block's state after reset, for a setting of the parameters (70_reset_and_hazards.md rules R381,
R382), beside a given radio and environment, which a reset leaves alone (rule R380). -/
def State.resetWith (par : Params) (radio : Radio) (env : Env) : State where
  par := par
  phase := .idle
  sticky := ⟨false, false, false, false⟩
  pkt := ⟨0, 0, 0, 0, 0⟩
  lastRssi := 0
  nowMs := 0
  lastActivityMs := 0
  lastAcceptMs := 0
  anyAccepted := false
  extPowered := false
  battSampled := false
  graceDone := decide (par.bootGraceMs = 0)
  pwrState := .active
  radioMode := .sleep
  configured := false
  rxPending := false
  cfg := par.cfgReset
  counters := ⟨0, 0, 0, 0⟩
  evq := []
  txq := []
  rxq := []
  cmdBuf := []
  resp := none
  radio := radio
  env := env

/-- The radio agent when the model starts. The spec gives it no reset value (10_state.md rule R57):
DESIGN CHOICE, logs 8 and 9. -/
def Radio.initial : Radio := ⟨false, [], 0, []⟩

/-- An environment with no choice made beforehand: every agent's choice is a free value (log 4). -/
def Env.free : Env := ⟨[], [], [], [], [], 0⟩

/-- The machine right after power-on reset: variant A (DESIGN CHOICE, log 2) with the parameter values of
00_scope.md rule R9 and `P_CFG_RESET` all zero (DESIGN CHOICE, log 3). -/
def State.reset : State :=
  State.resetWith (Config.defaults .A Config.zeroCfg) Radio.initial Env.free

end Sys2Proof.Machine
end

