-- ==== Sys2Proof/Machine/Ops.lean ====
section
/-! DEFINITION. The shared operations of the block: ending a command, draws from the external agents,
the FIFOs, the activity stamp, the transport fault and reset. -/

namespace Sys2Proof.Machine

/-! ## Ending a command (00_scope.md rule R15; 30_encoding.md rule R115) -/

/-- The code of a status (60_exceptions.md rule R340). -/
def statusByte : Status → Byte
  | .ok => 0x00
  | .eOpcode => 0x01
  | .eArg => 0x02
  | .eEmpty => 0x03
  | .eFull => 0x04
  | .eTimeout => 0x05
  | .eTransport => 0x06
  | .eInit => 0x07
  | .eNotInit => 0x08
  | .eNoFrame => 0x09
  | .eCrc => 0x0A

/-- The bytes of a response: the status byte, then the payload if the status is `OK` (rule R115). -/
def responseBytes (st : Status) (payload : List Byte) : List Byte :=
  match st with
  | .ok => statusByte .ok :: payload
  | e => [statusByte e]

/-- `respond(st, payload)`: emits the response and returns the command port to Idle. -/
def respond (st : Status) (payload : List Byte) (s : State) : State :=
  { s with phase := .idle, resp := some (responseBytes st payload) }

/-- `fail(st)`: `respond(st, [])`. Every error of the block is taken here: no state is saved, no mode
changes and nothing is rolled back (60_exceptions.md rule R344). -/
def fail (st : Status) (s : State) : State := respond st [] s

/-- The command stays in progress until its wait ends (10_state.md rule R32). -/
def suspend (c : Instr) (k : List Micro) (l : Locals) (w : Wait) (s : State) : State :=
  { s with phase := .running c k l w }

/-! ## Draws (10_state.md rules R57, R60) -/

/-- One free value has been drawn. -/
def countDraw (s : State) : State := { s with env := { s.env with draws := s.env.draws + 1 } }

/-- `radio.busy` at this sample. -/
def drawBusy (s : State) : Bool × State :=
  match s.env.busy with
  | b :: rest => (b, { s with env := { s.env with busy := rest } })
  | [] => (Config.freeBusy s.env.draws, countDraw s)

/-- `radio.present` at this Probe. -/
def drawPresent (s : State) : Bool × State :=
  match s.env.present with
  | b :: rest => (b, { s with env := { s.env with present := rest } })
  | [] => (Config.freePresent s.env.draws, countDraw s)

/-- The byte the host writes next. -/
def drawHostByte (s : State) : Byte × State :=
  match s.env.hostBytes with
  | b :: rest => (b, { s with env := { s.env with hostBytes := rest } })
  | [] => (Config.freeByte s.env.draws, countDraw s)

/-- The agent step that comes next (20_memory.md rule R86). -/
def drawStep (s : State) : AgentStep × State :=
  match s.env.sched with
  | a :: rest => (a, { s with env := { s.env with sched := rest } })
  | [] => (Config.freeStep s.env.draws, countDraw s)

/-! ## FIFOs (20_memory.md rule R85; 44_fifo_pipeline.md rules R280, R281) -/

/-- `push(q, x)` where `count(q) < cap(q)`; `none` where the push is rejected. -/
def fifoPush {α : Type} (cap : Nat) (q : List α) (x : α) : Option (List α) :=
  if q.length < cap then some (q ++ [x]) else none

/-- A rejected push onto the event FIFO: EVQ_DROP and OVERFLOW_SEEN. -/
def dropEvq (s : State) : State :=
  { s with counters := { s.counters with evqDrop := s.counters.evqDrop + 1 },
           sticky := { s.sticky with overflowSeen := true } }

/-- A rejected push onto the transmit FIFO: TXQ_DROP and OVERFLOW_SEEN. -/
def dropTxq (s : State) : State :=
  { s with counters := { s.counters with txqDrop := s.counters.txqDrop + 1 },
           sticky := { s.sticky with overflowSeen := true } }

/-- A rejected push onto the receive FIFO: RXQ_DROP and OVERFLOW_SEEN. -/
def dropRxq (s : State) : State :=
  { s with counters := { s.counters with rxqDrop := s.counters.rxqDrop + 1 },
           sticky := { s.sticky with overflowSeen := true } }

/-- `push_or_drop(s.evq, x)`: whether `x` was pushed, and the state after. -/
def pushEvq (x : Byte) (s : State) : Bool × State :=
  match fifoPush s.par.evqCap s.evq x with
  | some q => (true, { s with evq := q })
  | none => (false, dropEvq s)

/-- `push_or_drop(s.txq, p)`. -/
def pushTxq (p : Packet) (s : State) : Bool × State :=
  match fifoPush s.par.txqCap s.txq p with
  | some q => (true, { s with txq := q })
  | none => (false, dropTxq s)

/-- `push_or_drop(s.rxq, p)`. -/
def pushRxq (p : Packet) (s : State) : Bool × State :=
  match fifoPush s.par.rxqCap s.rxq p with
  | some q => (true, { s with rxq := q })
  | none => (false, dropRxq s)

/-! ## Time (43_power.md rule R250; 60_exceptions.md rule R352) -/

/-- `s.now_ms - stamp`, modulo 2^32, as a count of milliseconds. -/
def elapsedMs (stamp : Word) (s : State) : Nat := (s.nowMs - stamp).toNat

/-- `notify()`. -/
def notify (s : State) : State := { s with lastActivityMs := s.nowMs }

/-! ## Errors with a record -/

/-- Sets TRANSPORT_FAULT (60_exceptions.md rule R343). -/
def recordTransportFault (s : State) : State :=
  { s with sticky := { s.sticky with transportFault := true } }

/-- Sets TX_TIMEOUT_SEEN (42_transceiver.md rule R202). -/
def recordTxTimeout (s : State) : State :=
  { s with sticky := { s.sticky with txTimeoutSeen := true } }

/-- `integrity_fail()` (44_fifo_pipeline.md rule R298). -/
def integrityFail (s : State) : State :=
  fail .eCrc
    { s with counters := { s.counters with crcErr := s.counters.crcErr + 1 },
             sticky := { s.sticky with crcErrSeen := true } }

/-- Where a running command stands after one line of its pseudocode. -/
inductive Progress where
  /-- It goes on to the next line. -/
  | on (l : Locals) (s : State)
  /-- It has suspended or ended. -/
  | stop (s : State)
deriving DecidableEq, Repr

/-- `transport_fault()` (60_exceptions.md rule R343): in PWR_TICK's sleep entry the op is abandoned and the
entry proceeds; any other command ends with `E_TRANSPORT`. -/
def transportFault (c : Instr) (l : Locals) (s : State) : Progress :=
  match c with
  | .pwrTick _ => .on l (recordTransportFault s)
  | _ => .stop (fail .eTransport (recordTransportFault s))

/-! ## Reset (70_reset_and_hazards.md rule R380) -/

/-- A reset of the whole block, power-on or DeepSleep wake: every state element takes its reset value; a
command, a partial command and an unread response are lost; the radio is not reset. -/
def resetBlock (s : State) : State := State.resetWith s.par s.radio s.env

end Sys2Proof.Machine
end

