-- ==== Sys2Proof/Machine/Crc.lean ====
section
/-! DEFINITION. The CRC-16/CCITT generator (40_crc.md) and its command. -/

namespace Sys2Proof.Machine

/-- `reflect_N(v)` (rule R151). -/
def reflect {n : Nat} (v : BitVec n) : BitVec n := v.reverse

/-- One bit of the inner loop of rule R152, MSB first. -/
def crcBit (poly reg : Half) : Half :=
  if reg.msb then (reg <<< 1) ^^^ poly else reg <<< 1

/-- `n` turns of the inner loop. -/
def crcBits (poly : Half) : Nat → Half → Half
  | 0, reg => reg
  | n + 1, reg => crcBits poly n (crcBit poly reg)

/-- One byte of the outer loop of rule R152. -/
def crcByte (p : Params) (reg : Half) (b : Byte) : Half :=
  let b := if p.crcRefIn then reflect b else b
  crcBits p.crcPoly 8 (reg ^^^ (b.setWidth 16 <<< 8))

/-- The register after the bytes of `data`, in sequence order. -/
def crcReg (p : Params) (reg : Half) (data : List Byte) : Half := data.foldl (crcByte p) reg

/-- `crc16(data)` (rule R152): a pure function of the data and the parameters (rule R153). -/
def crc16 (p : Params) (data : List Byte) : Half :=
  let reg := crcReg p p.crcInit data
  (if p.crcRefOut then reflect reg else reg) ^^^ p.crcXorOut

/-- CRC16 (rule R155). -/
def execCrc16 (data : List Byte) (s : State) : Host.Outcome State Fault Refusal :=
  .next (respond .ok (be16 (crc16 s.par data)) s)

end Sys2Proof.Machine
end

