-- ==== Sys2Proof/Machine/Codec.lean ====
section
/-! DEFINITION. The packet serializer/deserializer (41_codec.md) and its commands. -/

namespace Sys2Proof.Machine

/-- `payload(p)` (rule R170). -/
def payload (p : Packet) : List Byte :=
  p.nodeId :: (be32 p.timestamp ++ [p.eventType, p.batteryLevel])

/-- `frame(p) = payload(p) ++ be16(p.crc)` (rule R171). -/
def frame (p : Packet) : List Byte := payload p ++ be16 p.crc

/-- `unframe(f)` (rule R171), for a sequence `f` of 9 bytes; a missing byte reads as 0 (log 19). -/
def unframe (f : List Byte) : Packet where
  nodeId := f.getD 0 0
  timestamp := fromBe32 (f.getD 1 0) (f.getD 2 0) (f.getD 3 0) (f.getD 4 0)
  eventType := f.getD 5 0
  batteryLevel := f.getD 6 0
  crc := fromBe16 (f.getD 7 0) (f.getD 8 0)

/-- A packet with its own CRC (rules R172, R293). -/
def buildPacket (par : Params) (nodeId : Byte) (timestamp : Word) (eventType batteryLevel : Byte) :
    Packet :=
  let p : Packet := ⟨nodeId, timestamp, eventType, batteryLevel, 0⟩
  { p with crc := crc16 par (payload p) }

/-- `crc16(payload(p)) = p.crc` (rule R175). -/
def packetValid (par : Params) (p : Packet) : Bool := crc16 par (payload p) == p.crc

/-- PKT_BUILD (rule R172). -/
def execPktBuild (nodeId : Byte) (timestamp : Word) (eventType batteryLevel : Byte) (s : State) :
    Host.Outcome State Fault Refusal :=
  .next (respond .ok [] { s with pkt := buildPacket s.par nodeId timestamp eventType batteryLevel })

/-- PKT_SERIALIZE (rule R173): the stored CRC is emitted as it is. -/
def execPktSerialize (s : State) : Host.Outcome State Fault Refusal :=
  .next (respond .ok (frame s.pkt) s)

/-- PKT_DESERIALIZE (rule R174): the CRC is not checked. -/
def execPktDeserialize (f : List Byte) (s : State) : Host.Outcome State Fault Refusal :=
  .next (respond .ok [] { s with pkt := unframe f })

/-- PKT_VALIDATE (rule R175): the validity is in the payload byte. -/
def execPktValidate (s : State) : Host.Outcome State Fault Refusal :=
  .next (respond .ok [if packetValid s.par s.pkt then 1 else 0] s)

end Sys2Proof.Machine
end

