-- ==== Sys2Proof/Machine/Operands.lean ====
section
/-! DEFINITION. The index spaces that operands name (20_memory.md rule R81): configuration registers and
counters. -/

namespace Sys2Proof.Machine

/-- `CfgRead(i)` (10_state.md rule R50; 45_control.md rule R325): bits above a register's width read 0,
0x07 PAYLOAD_LEN is hard-wired to `P_PAYLOAD_LEN`, and 0x08 to 0xFF are unmapped. -/
def cfgRead (p : Params) (i : Byte) (r : CfgRegs) : Option Word :=
  match i.toNat with
  | 0 => some (r.nodeId.setWidth 32)
  | 1 => some r.frequency
  | 2 => some (r.bandwidth.setWidth 32)
  | 3 => some (r.spreadingFactor.setWidth 32)
  | 4 => some (r.codingRate.setWidth 32)
  | 5 => some (r.syncWord.setWidth 32)
  | 6 => some (r.txPower.setWidth 32)
  | 7 => some (p.payloadLen.setWidth 32)
  | _ => none

/-- `CfgWrite(i, v)` (45_control.md rule R326): keeps the low bits up to the register's width; `none` for
0x07, which is read-only, and for unmapped indices. -/
def cfgWrite (i : Byte) (v : Word) (r : CfgRegs) : Option CfgRegs :=
  match i.toNat with
  | 0 => some { r with nodeId := v.setWidth 8 }
  | 1 => some { r with frequency := v }
  | 2 => some { r with bandwidth := v.setWidth 8 }
  | 3 => some { r with spreadingFactor := v.setWidth 8 }
  | 4 => some { r with codingRate := v.setWidth 8 }
  | 5 => some { r with syncWord := v.setWidth 16 }
  | 6 => some { r with txPower := v.setWidth 8 }
  | _ => none

/-- Counter `i` (10_state.md rule R51); `none` for `i > 3`. -/
def counterRead (i : Byte) (n : Counters) : Option Word :=
  match i.toNat with
  | 0 => some n.crcErr
  | 1 => some n.evqDrop
  | 2 => some n.txqDrop
  | 3 => some n.rxqDrop
  | _ => none

/-- The operand of `Configure`: `[CfgRead(0x01), ..., CfgRead(0x07)]` (42_transceiver.md rules R191,
R205). -/
def linkSettings (p : Params) (r : CfgRegs) : List Word :=
  [0x01, 0x02, 0x03, 0x04, 0x05, 0x06, 0x07].filterMap fun i => cfgRead p i r

end Sys2Proof.Machine
end

