-- ==== Sys2Proof/Machine/RadioPort.lean ====
section
/-! DEFINITION. The radio port (42_transceiver.md rules R190 to R199): performing an op, the ready waits of
variant B, and the RSSI map. -/

namespace Sys2Proof.Machine

/-- The radio performs an op (rule R191): recorded in `radio.ops`. -/
def recordOp (op : RadioOp) (s : State) : State :=
  { s with radio := { s.radio with ops := s.radio.ops ++ [op] } }

/-- "perform op" (rule R191), its result going to the locals. The effect of `SetMode` on `s` comes when
the op completes (rule R195). -/
def performOp (op : RadioOp) (l : Locals) (s : State) : Locals × State :=
  match op with
  | .probe =>
    let (p, s) := drawPresent (recordOp .probe s)
    ({ l with present := p }, s)
  | .configure cfg => (l, recordOp (.configure cfg) s)
  | .writePayload data => (l, recordOp (.writePayload data) s)
  | .setMode m => (l, recordOp (.setMode m) s)
  | .readFrame =>
    ({ l with frame := s.radio.frame, raw := s.radio.rawRssi }, recordOp .readFrame s)
  | .clearIrq =>
    let s := recordOp .clearIrq s
    (l, { s with rxPending := false, radio := { s.radio with irqTxDone := false } })

/-- The mode a completed `SetMode` records (rule R195). -/
def modeAfter : ChipMode → RadioMode
  | .sleep => .sleep
  | .standby => .standby
  | .tx => .transmitting
  | .rxCont => .receivingContinuous

/-- `complete_mode(m)` (rule R195). -/
def completeMode (m : ChipMode) (s : State) : State :=
  { s with radioMode := modeAfter m, rxPending := if m = .rxCont then s.rxPending else false }

/-- What one sample of `radio.busy` in `await_ready()` leads to (rule R194). -/
inductive Sample where
  /-- `radio.busy = 0`. -/
  | ready (s : State)
  /-- Busy: the next sample is taken at the next tick. -/
  | again (s : State)
  /-- Busy at the sample numbered `P_BUSY_RETRY_MAX`. -/
  | ceiling (s : State)
deriving DecidableEq, Repr

/-- Sample number `n` of an `await_ready()` (rule R194). -/
def sampleBusy (n : Nat) (s : State) : Sample :=
  let (busy, s) := drawBusy s
  if busy then
    if n = s.par.busyRetryMax then .ceiling s else .again s
  else .ready s

/-- The read-back wait after `SetMode(m)`, at sample `n`; once ready, the mode change completes. -/
def awaitReadback (c : Instr) (k : List Micro) (l : Locals) (m : ChipMode) (n : Nat) (s : State) :
    Progress :=
  match sampleBusy n s with
  | .ready s => .on l (completeMode m s)
  | .again s => .stop (suspend c k l (.readback m (BitVec.ofNat 8 n)) s)
  | .ceiling s => transportFault c l s

/-- Variant B once the radio is ready: the op is performed, and a `SetMode` is read back (rule R194). -/
def performReady (c : Instr) (k : List Micro) (l : Locals) (op : RadioOp) (s : State) : Progress :=
  let (l, s) := performOp op l s
  match op with
  | .setMode m => awaitReadback c k l m 1 s
  | _ => .on l s

/-- The ready wait before `op`, at sample `n` (rule R194). -/
def awaitReady (c : Instr) (k : List Micro) (l : Locals) (op : RadioOp) (n : Nat) (s : State) :
    Progress :=
  match sampleBusy n s with
  | .ready s => performReady c k l op s
  | .again s => .stop (suspend c k l (.ready op (BitVec.ofNat 8 n)) s)
  | .ceiling s => transportFault c l s

/-- Variant A: the op, and a mode change with it, completes at once (rule R193). -/
def performAtOnce (op : RadioOp) (l : Locals) (s : State) : Progress :=
  let (l, s) := performOp op l s
  match op with
  | .setMode m => .on l (completeMode m s)
  | _ => .on l s

/-- `radio(op)` (rule R194). `k` is what the command runs after it. -/
def radioIssue (c : Instr) (k : List Micro) (l : Locals) (op : RadioOp) (s : State) : Progress :=
  match s.par.variant with
  | .A => performAtOnce op l s
  | .B => awaitReady c k l op 1 s

/-- `clamp_i16`. -/
def clampI16 (x : Int) : Int := max (-32768) (min 32767 x)

/-- `rssi_dbm(raw)` (rule R199): integer arithmetic, division truncating toward zero; a divisor of 0, which
00_scope.md rule R11 excludes, gives the offset (log 18). -/
def rssiDbm (p : Params) (raw : Byte) : Half :=
  BitVec.ofInt 16 (clampI16 (p.rssiOff + (p.rssiMul * (raw.toNat : Int)).tdiv p.rssiDiv))

end Sys2Proof.Machine
end

