-- ==== Sys2Proof/Machine/Sequencer.lean ====
section
/-! DEFINITION. The command sequencer (10_state.md rule R32): running the pseudocode of a command that can
suspend, line by line, and resuming it at a tick (20_memory.md rule R87). -/

namespace Sys2Proof.Machine

/-- The locals a command starts with. -/
def noLocals : Locals := ⟨[], false, [], 0, 0⟩

/-! ## Bodies -/

/-- `transmit_done` (42_transceiver.md rule R203). -/
def transmitDoneBody : List Micro :=
  [.radio .clearIrq, .radio (.setMode .standby), .respondOk]

/-- `transmit_timeout` after TX_TIMEOUT_SEEN is set (42_transceiver.md rule R202). -/
def transmitTimeoutBody : List Micro :=
  [.radio (.setMode .standby), .radio .clearIrq, .failTimeout]

/-- RADIO_TRANSMIT from `to_standby()` onward (42_transceiver.md rule R200). -/
def transmitBody : List Micro :=
  [.toStandby, .radio .clearIrq, .writePayload, .radio (.setMode .tx), .txWait] ++ transmitDoneBody

/-- RADIO_RECEIVE from the `ReadFrame` to the re-arm (42_transceiver.md rule R208). -/
def receiveBody (maxLen : Byte) : List Micro :=
  [.radio .readFrame, .takeFrame maxLen, .radio .clearIrq, .radio (.setMode .rxCont)]

/-- RADIO_INIT after `s.configured <- 0` (42_transceiver.md rule R205). -/
def initBody : List Micro :=
  [.radio .probe, .failAbsent, .toStandby, .configure, .setConfigured, .respondOk]

/-- RADIO_SLEEP (42_transceiver.md rule R212). -/
def radioSleepBody : List Micro := [.radio (.setMode .sleep), .respondOk]

/-- RADIO_WAKE from Sleep (42_transceiver.md rule R213). -/
def wakeToStandbyBody : List Micro := [.radio (.setMode .standby), .respondOk]

/-- RADIO_WAKE from Standby (42_transceiver.md rule R213). -/
def wakeToReceiveBody : List Micro :=
  [.radio .clearIrq, .radio (.setMode .rxCont), .respondOk]

/-- RADIO_RX_START from `to_standby()` onward (42_transceiver.md rule R214). -/
def rxStartBody : List Micro :=
  [.toStandby, .radio .clearIrq, .radio (.setMode .rxCont), .respondOk]

/-- `enter_sleep(kind)` (43_power.md rule R255). -/
def enterSleepBody (kind : SleepKind) : List Micro :=
  [.radio (.setMode .sleep), .enterSleep kind]

/-! ## Lines -/

/-- The power state a sleep is entered with (43_power.md rule R255). -/
def sleepState : SleepKind → PwrState
  | .light => .lightSleep
  | .deep => .deepSleep

/-- PIPE_RECV after the body of RADIO_RECEIVE (44_fifo_pipeline.md rule R297). -/
def deliverFrame (l : Locals) (s : State) : State :=
  if l.n ≠ 9 then integrityFail s
  else
    let p := unframe l.frame
    if packetValid s.par p then
      match pushRxq p s with
      | (true, s) => respond .ok [] s
      | (false, s) => fail .eFull s
    else integrityFail s

/-- One line of command `c`'s pseudocode, the lines `k` following it. -/
def stepMicro (c : Instr) (k : List Micro) (m : Micro) (l : Locals) (s : State) : Progress :=
  match m with
  | .radio op => radioIssue c k l op s
  | .toStandby =>
    if s.radioMode = .standby then .on l s else radioIssue c k l (.setMode .standby) s
  | .configure => radioIssue c k l (.configure (linkSettings s.par s.cfg)) s
  | .writePayload => radioIssue c k l (.writePayload l.data) s
  | .failAbsent => if l.present then .on l s else .stop (fail .eInit s)
  | .setConfigured => .on l { s with configured := true }
  | .txWait => .stop (suspend c k l (.tx s.nowMs) s)
  | .failTimeout => .stop (fail .eTimeout s)
  | .takeFrame maxLen =>
    .on { l with n := min l.frame.length maxLen.toNat } { s with lastRssi := rssiDbm s.par l.raw }
  | .respondFrame => .stop (respond .ok (BitVec.ofNat 8 l.n :: l.frame.take l.n) s)
  | .deliver => .stop (deliverFrame l s)
  | .respondOk => .stop (respond .ok [] s)
  | .enterSleep kind =>
    .stop (suspend c k l (.sleep kind s.nowMs) { s with pwrState := sleepState kind })

/-! ## Running and resuming -/

/-- Runs the lines up to the command's next suspension point or its end (20_memory.md rule R86). Every
body ends with a line that ends the command. -/
def runLines (c : Instr) : List Micro → Locals → State → State
  | [], _, s => { s with phase := .idle }
  | m :: k, l, s =>
    match stepMicro c k m l s with
    | .on l s => runLines c k l s
    | .stop s => s

/-- Goes on with the lines `k` where a wait has ended. -/
def continueWith (c : Instr) (k : List Micro) : Progress → State
  | .on l s => runLines c k l s
  | .stop s => s

/-- `light_wake(cause)` (43_power.md rule R257). -/
def lightWake (cause : Byte) (s : State) : State :=
  respond .ok [cause] (notify { s with pwrState := .active })

/-- A tick's evaluation of the wait of the suspended command `c` (20_memory.md rule R87; 42_transceiver.md
rules R194, R201; 43_power.md rules R256, R258). -/
def resumeWait (c : Instr) (k : List Micro) (l : Locals) (w : Wait) (s : State) : State :=
  match w with
  | .ready op n => continueWith c k (awaitReady c k l op (n.toNat + 1) s)
  | .readback m n => continueWith c k (awaitReadback c k l m (n.toNat + 1) s)
  | .tx start =>
    if s.radio.irqTxDone then runLines c k l s
    else if elapsedMs start s ≥ s.par.txTimeoutMs then
      runLines c transmitTimeoutBody l (recordTxTimeout s)
    else s
  | .sleep .light start =>
    if elapsedMs start s ≥ s.par.lightSleepMaxMs then lightWake 0x03 s else s
  | .sleep .deep start =>
    if elapsedMs start s ≥ s.par.deepSleepMaxMs then resetBlock s else s

end Sys2Proof.Machine
end

