-- ==== Sys2Proof/Machine/Agents.lean ====
section
/-! DEFINITION. The steps of the external agents other than the host's write (20_memory.md rule R86): the
clock tick, the trigger, the radio's RxDone and TxDone, the host's read. -/

namespace Sys2Proof.Machine

/-- The grace comparator (43_power.md rule R251). -/
def graceComparator (s : State) : State :=
  if s.nowMs.toNat ≥ s.par.bootGraceMs then { s with graceDone := true } else s

/-- A tick's first two parts: the time base, modulo 2^32, then the grace comparator (20_memory.md rule
R87). -/
def advanceClock (s : State) : State := graceComparator { s with nowMs := s.nowMs + 1 }

/-- The last part of a tick: a suspended command's wait is evaluated against the new time. -/
def resumeSuspended (s : State) : State :=
  match s.phase with
  | .idle => s
  | .running c k l w => resumeWait c k l w s

/-- A clock tick step (20_memory.md rule R87; 60_exceptions.md rule R350 item 2). -/
def tickStep (s : State) : State := resumeSuspended (advanceClock s)

/-- Whether a trigger now is accepted (44_fifo_pipeline.md rule R282). -/
def triggerAccepted (s : State) : Bool :=
  !s.anyAccepted || decide (elapsedMs s.lastAcceptMs s ≥ s.par.debounceMs)

/-- The debounce and push part of a trigger step (44_fifo_pipeline.md rule R283): a dropped push still
counts as accepted. -/
def debounceTrigger (s : State) : State :=
  if triggerAccepted s then
    (pushEvq 0x01 { s with lastAcceptMs := s.nowMs, anyAccepted := true }).2
  else s

/-- A trigger step (44_fifo_pipeline.md rule R283; 43_power.md rules R256, R258). -/
def triggerStep (s : State) : State :=
  match s.phase with
  | .running _ _ _ (.sleep .deep _) => resetBlock s
  | .running _ _ _ (.sleep .light _) => debounceTrigger (lightWake 0x02 s)
  | _ => debounceTrigger s

/-- The radio's RxDone step (10_state.md rule R58), for a frame of 0 to 255 bytes (rule R57): enabled only
in ReceivingContinuous; a step that is not enabled is not taken (log 5). -/
def rxDoneStep (f : List Byte) (raw : Byte) (s : State) : State :=
  if s.radioMode = .receivingContinuous ∧ f.length ≤ 255 then
    { s with radio := { s.radio with frame := f, rawRssi := raw }, rxPending := true }
  else s

/-- The radio's TxDone step (10_state.md rule R59): enabled only during the transmit wait. -/
def txDoneStep (s : State) : State :=
  match s.phase with
  | .running _ _ _ (.tx _) => { s with radio := { s.radio with irqTxDone := true } }
  | _ => s

/-- The host takes the response, if there is one (20_memory.md rule R86). -/
def hostReadStep (s : State) : State :=
  match s.resp with
  | some r => { s with resp := none, env := { s.env with hostGot := s.env.hostGot ++ [r] } }
  | none => s

end Sys2Proof.Machine
end

