-- ==== Sys2Proof/Machine/Flags.lean ====
section
/-! DEFINITION. The STATUS register (10_state.md rule R33): the word STATUS_READ returns and what
STATUS_CLEAR does to it. -/

namespace Sys2Proof.Machine

/-- `code(s.radio_mode)`. -/
def modeCode : RadioMode → Half
  | .sleep => 0
  | .standby => 1
  | .transmitting => 2
  | .receivingContinuous => 3

/-- `code(s.pwr_state)`. -/
def pwrCode : PwrState → Half
  | .active => 0
  | .lightSleep => 1
  | .deepSleep => 2

/-- STATUS bit 12. -/
def variantBit : Variant → Bool
  | .A => false
  | .B => true

/-- `zext(b) << k`. -/
def flagAt (b : Bool) (k : Nat) : Half := (BitVec.ofBool b).setWidth 16 <<< k

/-- STATUS as a word (45_control.md rule R321); bits 15:14 are 0. -/
def statusWord (s : State) : Half :=
  flagAt s.configured 0
    ||| flagAt s.rxPending 1
    ||| flagAt s.sticky.transportFault 2
    ||| flagAt s.sticky.txTimeoutSeen 3
    ||| flagAt s.sticky.crcErrSeen 4
    ||| flagAt s.sticky.overflowSeen 5
    ||| flagAt s.extPowered 6
    ||| flagAt s.graceDone 7
    ||| modeCode s.radioMode <<< 8
    ||| pwrCode s.pwrState <<< 10
    ||| flagAt (variantBit s.par.variant) 12
    ||| flagAt s.battSampled 13

/-- The sticky bits after STATUS_CLEAR (45_control.md rule R322): mask bits 2 to 5 clear, the others are
ignored. -/
def clearSticky (mask : Half) (b : Sticky) : Sticky where
  transportFault := b.transportFault && !mask.getLsbD 2
  txTimeoutSeen := b.txTimeoutSeen && !mask.getLsbD 3
  crcErrSeen := b.crcErrSeen && !mask.getLsbD 4
  overflowSeen := b.overflowSeen && !mask.getLsbD 5

end Sys2Proof.Machine
end

