-- ==== Sys2Proof/Machine/Control.lean ====
section
/-! DEFINITION. The control, status and configuration commands (45_control.md). -/

namespace Sys2Proof.Machine

/-- NOP (rule R320). -/
def execNop (s : State) : Host.Outcome State Fault Refusal := .next (respond .ok [] s)

/-- STATUS_READ (rule R321). -/
def execStatusRead (s : State) : Host.Outcome State Fault Refusal :=
  .next (respond .ok (be16 (statusWord s)) s)

/-- STATUS_CLEAR (rule R322). -/
def execStatusClear (mask : Half) (s : State) : Host.Outcome State Fault Refusal :=
  .next (respond .ok [] { s with sticky := clearSticky mask s.sticky })

/-- CNT_READ (rule R323). -/
def execCntRead (idx : Byte) (s : State) : Host.Outcome State Fault Refusal :=
  .next
    (match counterRead idx s.counters with
     | some v => respond .ok (be32 v) s
     | none => fail .eArg s)

/-- TIME_READ (rule R324). -/
def execTimeRead (s : State) : Host.Outcome State Fault Refusal :=
  .next (respond .ok (be32 s.nowMs) s)

/-- CFG_READ (rule R325). -/
def execCfgRead (idx : Byte) (s : State) : Host.Outcome State Fault Refusal :=
  .next
    (match cfgRead s.par idx s.cfg with
     | some v => respond .ok (be32 v) s
     | none => fail .eArg s)

/-- CFG_WRITE (rule R326): no effect on the radio until the next RADIO_INIT (20_memory.md rule R92). -/
def execCfgWrite (idx : Byte) (val : Word) (s : State) : Host.Outcome State Fault Refusal :=
  .next
    (match cfgWrite idx val s.cfg with
     | some r => respond .ok [] { s with cfg := r }
     | none => fail .eArg s)

end Sys2Proof.Machine
end

