-- ==== Sys2Proof/Machine/Fifo.lean ====
section
/-! DEFINITION. The commands of the event FIFO and the pipeline (44_fifo_pipeline.md). -/

namespace Sys2Proof.Machine

/-- EVQ_PUSH (rule R290). -/
def execEvqPush (eventType : Byte) (s : State) : Host.Outcome State Fault Refusal :=
  .next
    (match pushEvq eventType s with
     | (true, s) => respond .ok [] s
     | (false, s) => fail .eFull s)

/-- EVQ_POP (rule R291). -/
def execEvqPop (s : State) : Host.Outcome State Fault Refusal :=
  .next
    (match s.evq with
     | [] => fail .eEmpty s
     | e :: rest => respond .ok [e] { s with evq := rest })

/-- QUEUE_STATUS (rule R292). A count above 255, which 00_scope.md rule R11 excludes, is answered modulo 256
(DESIGN CHOICE, log 21). -/
def execQueueStatus (s : State) : Host.Outcome State Fault Refusal :=
  .next
    (respond .ok
      [BitVec.ofNat 8 s.evq.length, BitVec.ofNat 8 s.txq.length, BitVec.ofNat 8 s.rxq.length] s)

/-- PIPE_BUILD (rule R293): `notify()` runs even when the push is dropped. -/
def execPipeBuild (battery : Byte) (s : State) : Host.Outcome State Fault Refusal :=
  .next
    (match s.evq with
     | [] => fail .eEmpty s
     | e :: rest =>
       match pushTxq (buildPacket s.par s.cfg.nodeId s.nowMs e battery)
           (notify { s with evq := rest }) with
       | (true, s) => respond .ok [] s
       | (false, s) => fail .eFull s)

/-- PIPE_SEND (rules R295, R296): `configured` is checked before the pop. -/
def execPipeSend (s : State) : Host.Outcome State Fault Refusal :=
  .next
    (if s.configured then
       match s.txq with
       | [] => fail .eEmpty s
       | p :: rest =>
         runLines .pipeSend transmitBody { noLocals with data := frame p } { s with txq := rest }
     else fail .eNotInit s)

/-- PIPE_RECV (rule R297). -/
def execPipeRecv (s : State) : Host.Outcome State Fault Refusal :=
  .next
    (if s.rxPending then
       runLines .pipeRecv (receiveBody 255 ++ [.deliver]) noLocals s
     else fail .eNoFrame s)

/-- RXQ_POP (rule R299). -/
def execRxqPop (s : State) : Host.Outcome State Fault Refusal :=
  .next
    (match s.rxq with
     | [] => fail .eEmpty s
     | p :: rest => respond .ok (frame p) { s with rxq := rest })

end Sys2Proof.Machine
end

