-- ==== Sys2Proof/Machine/Power.lean ====
section
/-! DEFINITION. The commands of the power sleep/wake controller (43_power.md). -/

namespace Sys2Proof.Machine

/-- PWR_NOTIFY (rule R250). -/
def execPwrNotify (s : State) : Host.Outcome State Fault Refusal :=
  .next (respond .ok [] (notify s))

/-- The externally-powered latch: the first PWR_TICK after reset samples its operand (rule R252). -/
def sampleBattery (battery : Byte) (s : State) : State :=
  if s.battSampled then s
  else { s with extPowered := decide (battery = 0), battSampled := true }

/-- The transition rules of PWR_TICK, in the source's priority order (rule R253). -/
def powerDecision (battery : Byte) (s : State) : State :=
  if s.extPowered || !s.graceDone then respond .ok [0x00] s
  else if battery ≠ 0 ∧ battery.toNat < s.par.critPct then
    runLines (.pwrTick battery) (enterSleepBody .deep) noLocals s
  else if elapsedMs s.lastActivityMs s ≥ s.par.idleTimeoutMs then
    runLines (.pwrTick battery) (enterSleepBody .light) noLocals s
  else respond .ok [0x01] s

/-- PWR_TICK (rule R253). -/
def execPwrTick (battery : Byte) (s : State) : Host.Outcome State Fault Refusal :=
  .next (powerDecision battery (sampleBattery battery s))

end Sys2Proof.Machine
end

