-- ==== Sys2Proof/Machine/Transceiver.lean ====
section
/-! DEFINITION. The commands of the transceiver mode sequencer (42_transceiver.md). -/

namespace Sys2Proof.Machine

/-- RADIO_INIT (rules R205, R206). -/
def execRadioInit (s : State) : Host.Outcome State Fault Refusal :=
  .next (runLines .radioInit initBody noLocals { s with configured := false })

/-- RADIO_TRANSMIT (rule R200). -/
def execRadioTransmit (data : List Byte) (s : State) : Host.Outcome State Fault Refusal :=
  .next
    (if data.length = 0 then fail .eArg s
     else if s.configured then
       runLines (.radioTransmit data) transmitBody { noLocals with data := data } s
     else fail .eNotInit s)

/-- RADIO_POLL (rule R207). -/
def execRadioPoll (s : State) : Host.Outcome State Fault Refusal :=
  .next (respond .ok [if s.rxPending then 1 else 0] s)

/-- RADIO_RECEIVE (rule R208). -/
def execRadioReceive (maxLen : Byte) (s : State) : Host.Outcome State Fault Refusal :=
  .next
    (if maxLen = 0 then fail .eArg s
     else if s.rxPending then
       runLines (.radioReceive maxLen) (receiveBody maxLen ++ [.respondFrame]) noLocals s
     else fail .eNoFrame s)

/-- RADIO_RSSI (rule R211). -/
def execRadioRssi (s : State) : Host.Outcome State Fault Refusal :=
  .next (respond .ok (be16 s.lastRssi) s)

/-- RADIO_SLEEP (rule R212). -/
def execRadioSleep (s : State) : Host.Outcome State Fault Refusal :=
  .next (runLines .radioSleep radioSleepBody noLocals s)

/-- RADIO_WAKE's arm from Standby (rule R213). -/
def wakeToReceive (s : State) : State :=
  if s.configured then runLines .radioWake wakeToReceiveBody noLocals s else fail .eNotInit s

/-- RADIO_WAKE (rule R213). In `Transmitting`, which a transport fault of variant B can leave behind and
for which the rule has no case, a free value chooses the arm (DESIGN CHOICE, log 11). -/
def execRadioWake (s : State) : Host.Outcome State Fault Refusal :=
  .next
    (match s.radioMode with
     | .sleep => runLines .radioWake wakeToStandbyBody noLocals s
     | .standby => wakeToReceive s
     | .receivingContinuous => respond .ok [] s
     | .transmitting =>
       match Config.freeWake s.env.draws with
       | .toStandby => runLines .radioWake wakeToStandbyBody noLocals (countDraw s)
       | .toReceive => wakeToReceive (countDraw s)
       | .noEffect => respond .ok [] (countDraw s))

/-- RADIO_RX_START (rule R214). -/
def execRadioRxStart (s : State) : Host.Outcome State Fault Refusal :=
  .next
    (if s.configured then
       if s.radioMode = .receivingContinuous then respond .ok [] s
       else runLines .radioRxStart rxStartBody noLocals s
     else fail .eNotInit s)

end Sys2Proof.Machine
end

