-- ==== Sys2Proof/Machine/Dispatch.lean ====
section
/-! DEFINITION. One arm per command of the opcode map (30_encoding.md rule R117). -/

namespace Sys2Proof.Machine

/-- "execute c" (30_encoding.md rule R112): the command from its start up to its first suspension point or
its end. -/
def exec (i : Instr) (s : State) : Host.Outcome State Fault Refusal :=
  match i with
  | .nop => Sys2Proof.Machine.execNop s
  | .statusRead => Sys2Proof.Machine.execStatusRead s
  | .statusClear mask => Sys2Proof.Machine.execStatusClear mask s
  | .cntRead idx => Sys2Proof.Machine.execCntRead idx s
  | .timeRead => Sys2Proof.Machine.execTimeRead s
  | .cfgRead idx => Sys2Proof.Machine.execCfgRead idx s
  | .cfgWrite idx val => Sys2Proof.Machine.execCfgWrite idx val s
  | .crc16 data => Sys2Proof.Machine.execCrc16 data s
  | .pktBuild nodeId timestamp eventType batteryLevel => Sys2Proof.Machine.execPktBuild nodeId timestamp eventType batteryLevel s
  | .pktSerialize => Sys2Proof.Machine.execPktSerialize s
  | .pktDeserialize frame => Sys2Proof.Machine.execPktDeserialize frame s
  | .pktValidate => Sys2Proof.Machine.execPktValidate s
  | .radioInit => Sys2Proof.Machine.execRadioInit s
  | .radioTransmit data => Sys2Proof.Machine.execRadioTransmit data s
  | .radioPoll => Sys2Proof.Machine.execRadioPoll s
  | .radioReceive maxLen => Sys2Proof.Machine.execRadioReceive maxLen s
  | .radioRssi => Sys2Proof.Machine.execRadioRssi s
  | .radioSleep => Sys2Proof.Machine.execRadioSleep s
  | .radioWake => Sys2Proof.Machine.execRadioWake s
  | .radioRxStart => Sys2Proof.Machine.execRadioRxStart s
  | .pwrNotify => Sys2Proof.Machine.execPwrNotify s
  | .pwrTick battery => Sys2Proof.Machine.execPwrTick battery s
  | .evqPush eventType => Sys2Proof.Machine.execEvqPush eventType s
  | .evqPop => Sys2Proof.Machine.execEvqPop s
  | .queueStatus => Sys2Proof.Machine.execQueueStatus s
  | .pipeBuild battery => Sys2Proof.Machine.execPipeBuild battery s
  | .pipeSend => Sys2Proof.Machine.execPipeSend s
  | .pipeRecv => Sys2Proof.Machine.execPipeRecv s
  | .rxqPop => Sys2Proof.Machine.execRxqPop s

end Sys2Proof.Machine
end

