-- ==== Sys2Proof/Machine/Port.lean ====
section
/-! DEFINITION. The command port (30_encoding.md rules R112 to R114, R118) and the taking of one agent step
(20_memory.md rule R86). -/

namespace Sys2Proof.Machine

/-- `accepts a byte iff s.phase = Idle and s.resp = none` (rule R112). -/
def portAccepts (s : State) : Bool := decide (s.phase = .idle) && s.resp.isNone

/-- The port accepts byte `b` (rule R112): a complete command executes within the step; an illegal opcode
is answered `E_OPCODE` (rule R118); an incomplete command waits (rule R114). -/
def acceptByte (b : Byte) (s : State) : Host.Outcome State Fault Refusal :=
  let buf := s.cmdBuf ++ [b]
  if complete buf then
    match decode buf with
    | .ok (i, _) => exec i { s with cmdBuf := [] }
    | .error _ => .next (fail .eOpcode { s with cmdBuf := [] })
  else .next { s with cmdBuf := buf }

/-- The host's write step: enabled while the port accepts; otherwise the byte waits in the host. -/
def hostWriteStep (s : State) : Host.Outcome State Fault Refusal :=
  if portAccepts s then
    match drawHostByte s with
    | (b, s) => acceptByte b s
  else .next s

/-- One step of an external agent. -/
def agentStep (a : AgentStep) (s : State) : Host.Outcome State Fault Refusal :=
  match a with
  | .hostWrite => hostWriteStep s
  | .hostRead => .next (hostReadStep s)
  | .tick => .next (tickStep s)
  | .trigger => .next (triggerStep s)
  | .rxDone f raw => .next (rxDoneStep f raw s)
  | .txDone => .next (txDoneStep s)
  | .powerOnReset => .next (resetBlock s)

/-- The next atomic step: some agent's (20_memory.md rule R86). -/
def atomicStep (s : State) : Host.Outcome State Fault Refusal :=
  match drawStep s with
  | (a, s) => agentStep a s

/-- The state in which the host is about to write the last byte of the command `bytes`, the others being
already in the command buffer. -/
def offerCommand (bytes : List Byte) (s : State) : State :=
  { s with
    phase := .idle
    resp := none
    cmdBuf := bytes.dropLast
    env := { s.env with
      sched := .hostWrite :: s.env.sched
      hostBytes := bytes.getLastD 0 :: s.env.hostBytes } }

end Sys2Proof.Machine
end

