-- ==== Sys2Proof/Machine/Step.lean ====
section
/-! DEFINITION. One step of the machine, and placing a command where the next step takes it. -/

namespace Sys2Proof.Machine

/-- One atomic step of 20_memory.md rule R86. -/
def step (s : State) : Host.Outcome State Fault Refusal := atomicStep s

/-- `s` with a command of the opcode table about to be completed at the command port: the host's next
write is its last byte, and that write is the next step (log 16). -/
def State.withFetchWord (s : State) (nbits w : Nat) : State := offerCommand (tableCommand nbits w) s

end Sys2Proof.Machine
end

