-- ==== Sys2Proof/Safety.lean ====
section
/-! DEFINITION. What counts as a safe run, and the terms the claims use: answered states, iterated ticks,
and the invariants of the block. -/

namespace Sys2Proof.Machine

/-! ## Terms -/

/-- `s` after a command has ended with the response `code :: payload` and nothing else has changed
(30_encoding.md rule R115). -/
def answer (code : Byte) (payload : List Byte) (s : State) : State :=
  { s with phase := .idle, resp := some (code :: payload) }

/-- A step that stops the machine neither with a fault nor with a refusal. -/
def goesOn (o : Host.Outcome State Fault Refusal) : Prop := ∃ t, o = .next t

/-- `n` clock tick steps (20_memory.md rule R87). -/
def ticks : Nat → State → State
  | 0, s => s
  | n + 1, s => ticks n (tickStep s)

/-- `s` as a build of variant A, with no busy draws to come: what 00_scope.md rule R3 compares. -/
def asVariantA (s : State) : State :=
  { s with par := { s.par with variant := .A }, env := { s.env with busy := [] } }

/-- The sleep wait the block is in, if any. -/
def sleepingIn : Phase → Option SleepKind
  | .running _ _ _ (.sleep kind _) => some kind
  | _ => none

/-- The lines a suspended command has still to run. -/
def linesToRun : Phase → List Micro
  | .running _ k _ _ => k
  | .idle => []

/-- Whether the next step resets the block (70_reset_and_hazards.md rule R380): the reset input, or a trigger
or the maximum-duration tick in the DeepSleep wait (43_power.md rule R258). -/
def resetsNext (s : State) : Bool :=
  match (drawStep s).1, s.phase with
  | .powerOnReset, _ => true
  | .trigger, .running _ _ _ (.sleep .deep _) => true
  | .tick, .running _ _ _ (.sleep .deep start) =>
    decide (s.par.deepSleepMaxMs ≤ (s.nowMs + 1 - start).toNat)
  | _, _ => false

/-- The command that the next step executes, if that step is the host's write of a command's last byte at an
open port (30_encoding.md rule R112). -/
def commandBegun (s : State) : Option Instr :=
  match drawStep s with
  | (.hostWrite, u) =>
    let buf := u.cmdBuf ++ [(drawHostByte u).1]
    if portAccepts u && complete buf then
      match decode buf with
      | .ok (i, _) => some i
      | .error _ => none
    else none
  | _ => none

/-- The commands that issue radio ops (42_transceiver.md rule R192; 43_power.md rule R255;
44_fifo_pipeline.md rules R295, R297). -/
def radioOpcodes : List Opcode :=
  [.radioInit, .radioTransmit, .radioReceive, .radioSleep, .radioWake, .radioRxStart, .pwrTick, .pipeSend,
   .pipeRecv]

/-- From `s` to `t` each counter stays or grows by 1, modulo 2^32 (10_state.md rule R51). -/
def countersGrow (s t : State) : Prop :=
  (t.counters.crcErr = s.counters.crcErr ∨ t.counters.crcErr = s.counters.crcErr + 1) ∧
  (t.counters.evqDrop = s.counters.evqDrop ∨ t.counters.evqDrop = s.counters.evqDrop + 1) ∧
  (t.counters.txqDrop = s.counters.txqDrop ∨ t.counters.txqDrop = s.counters.txqDrop + 1) ∧
  (t.counters.rxqDrop = s.counters.rxqDrop ∨ t.counters.rxqDrop = s.counters.rxqDrop + 1)

/-- Every sticky bit set in `s` is set in `t` (10_state.md rule R33). -/
def stickyKept (s t : State) : Prop :=
  (s.sticky.transportFault = true → t.sticky.transportFault = true) ∧
  (s.sticky.txTimeoutSeen = true → t.sticky.txTimeoutSeen = true) ∧
  (s.sticky.crcErrSeen = true → t.sticky.crcErrSeen = true) ∧
  (s.sticky.overflowSeen = true → t.sticky.overflowSeen = true)

/-- A command begun in `s` that has left `t` stays suspended for fewer than `n` ticks and ends at the `n`th
with `E_TRANSPORT`: TRANSPORT_FAULT is set, the radio mode and `rx_pending` are those of `s`, and the radio has
become `r` (60_exceptions.md rule R343). -/
def faultsAt (n : Nat) (r : Radio) (s t : State) : Prop :=
  (∀ m, m < n → (ticks m t).phase ≠ .idle) ∧
  (ticks n t).phase = .idle ∧ (ticks n t).resp = some [0x06] ∧
  (ticks n t).sticky = { s.sticky with transportFault := true } ∧
  (ticks n t).radioMode = s.radioMode ∧ (ticks n t).rxPending = s.rxPending ∧ (ticks n t).radio = r

/-- A PWR_TICK of battery `b` begun in `s` that has left `t` stays awake, suspended and unanswered for fewer
than `n` ticks, and at the `n`th is in the sleep wait of `kind`, which starts then, still unanswered:
TRANSPORT_FAULT is set, the radio mode and `rx_pending` are those of `s`, and the radio has become `r`
(43_power.md rule R255; 60_exceptions.md rule R343). -/
def sleepsFaultedAt (n : Nat) (kind : SleepKind) (b : Byte) (r : Radio) (s t : State) : Prop :=
  (∀ m, m < n →
    (ticks m t).phase ≠ .idle ∧ (ticks m t).pwrState = s.pwrState ∧ (ticks m t).resp = s.resp) ∧
  (∃ l, (ticks n t).phase = .running (.pwrTick b) [] l (.sleep kind (s.nowMs + BitVec.ofNat 32 n))) ∧
  (ticks n t).pwrState = (match kind with | .light => .lightSleep | .deep => .deepSleep) ∧
  (ticks n t).sticky = { s.sticky with transportFault := true } ∧
  (ticks n t).radioMode = s.radioMode ∧ (ticks n t).rxPending = s.rxPending ∧
  (ticks n t).radio = r ∧ (ticks n t).resp = s.resp

/-- A command other than PWR_TICK that, begun in `s`, passes its checks and issues a radio op
(42_transceiver.md rules R200, R205, R208, R212 to R214; 44_fifo_pipeline.md rules R295, R297). -/
def issuesOp (i : Instr) (s : State) : Prop :=
  match i with
  | .radioInit => True
  | .radioTransmit d => d ≠ [] ∧ s.configured = true
  | .radioReceive m => m ≠ 0 ∧ s.rxPending = true
  | .radioSleep => True
  | .radioWake => s.radioMode = .sleep ∨ s.radioMode = .standby ∧ s.configured = true
  | .radioRxStart => s.configured = true ∧ s.radioMode ≠ .receivingContinuous
  | .pipeSend => s.configured = true ∧ s.txq ≠ []
  | .pipeRecv => s.rxPending = true
  | _ => False

/-! ## Invariants -/

/-- `count(q) <= cap(q)` for the three FIFOs (10_state.md rules R52 to R54). -/
def fifosBounded (s : State) : Prop :=
  s.evq.length ≤ s.par.evqCap ∧ s.txq.length ≤ s.par.txqCap ∧ s.rxq.length ≤ s.par.rxqCap

/-- `s.rx_pending = 1` implies `s.radio_mode = ReceivingContinuous` (42_transceiver.md rule R195). -/
def pendingOnlyInReceive (s : State) : Prop :=
  s.rxPending = true → s.radioMode = .receivingContinuous

/-- While a command runs, no response waits and the command buffer is empty; the command buffer never
holds a whole command (30_encoding.md rules R112 to R114). -/
def portQuiet (s : State) : Prop :=
  (s.phase ≠ .idle → s.resp = none ∧ s.cmdBuf = []) ∧ s.cmdBuf.length < commandLength s.cmdBuf

/-- The block is in a sleeping power state exactly in the sleep wait of that kind (43_power.md rules R255
to R258; 10_state.md rule R34). -/
def powerMatchesPhase (s : State) : Prop :=
  s.pwrState =
    match sleepingIn s.phase with
    | none => .active
    | some .light => .lightSleep
    | some .deep => .deepSleep

/-- A latched `ext_powered` has been sampled, and no sleep is entered or about to be entered (43_power.md
rules R252, R259). -/
def extPoweredAwake (s : State) : Prop :=
  s.extPowered = true →
    s.battSampled = true ∧ s.pwrState = .active ∧ sleepingIn s.phase = none ∧
      ∀ kind, Micro.enterSleep kind ∉ linesToRun s.phase

/-- The number of samples a busy wait has taken stays below `P_BUSY_RETRY_MAX`, and only variant B waits
(42_transceiver.md rules R193, R194). -/
def busySamplesBounded (s : State) : Prop :=
  match s.phase with
  | .running _ _ _ (.ready _ n) =>
    s.par.variant = .B ∧ 1 ≤ n.toNat ∧ n.toNat < s.par.busyRetryMax
  | .running _ _ _ (.readback _ n) =>
    s.par.variant = .B ∧ 1 ≤ n.toNat ∧ n.toNat < s.par.busyRetryMax
  | _ => True

/-- In variant A the radio mode is Transmitting exactly during the transmit wait, whose next lines return
to Standby, and no busy wait exists (10_state.md rule R34; 42_transceiver.md rules R193, R201). -/
def variantAModes (s : State) : Prop :=
  s.par.variant = .A →
    match s.phase with
    | .running _ k _ (.tx _) => s.radioMode = .transmitting ∧ k = transmitDoneBody
    | .running _ _ _ (.sleep _ _) => s.radioMode ≠ .transmitting
    | .running _ _ _ _ => False
    | .idle => s.radioMode ≠ .transmitting

/-- A RADIO_INIT suspended in a busy wait has not yet marked the radio configured, and will only after its
remaining radio ops (42_transceiver.md rules R205, R206). -/
def initPending (s : State) : Prop :=
  ∀ k l w, s.phase = .running .radioInit k l w →
    s.configured = false ∧ s.resp = none ∧
    k ∈ [[Micro.failAbsent, .toStandby, .configure, .setConfigured, .respondOk],
      [.configure, .setConfigured, .respondOk], [.setConfigured, .respondOk]] ∧
    ((∃ op n, w = .ready op n) ∨ ∃ m n, w = .readback m n)

/-- The boot grace window is closed once the time base has reached its length (43_power.md rule R251). -/
def graceClosed (s : State) : Prop := s.par.bootGraceMs ≤ s.nowMs.toNat → s.graceDone = true

end Sys2Proof.Machine
end

