-- ==== Sys2Proof/Certificates/Slice0/Obligations.lean ====
section
/-! DEFINITION. The statements for the provers. Each is a rule of spec/, or follows from rules; the rule is
cited. `answer code payload s` is `s` with a response and an Idle port, nothing else changed. The order of the
agents' steps, `env.sched`, is data of the model (log 4). -/

open Sys2Proof Sys2Proof.Machine

/-! ## Encoding (30_encoding.md) -/

/-- R110, R116, R117: decoding an encoded well-formed command gives it back, with every operand, and leaves
the bytes that follow. -/
def Obligations.DecodeOfEncode : Prop :=
  ∀ (i : Instr) (rest : List Byte), i.wellFormed = true → decode (encode i ++ rest) = .ok (i, rest)

/-- R117, R122: each command has exactly one encoding. -/
def Obligations.EncodeOfDecode : Prop :=
  ∀ (bs rest : List Byte) (i : Instr),
    decode bs = .ok (i, rest) → i.wellFormed = true ∧ bs = encode i ++ rest

/-- R113: a command is complete at its encoding's last byte and at no earlier byte. -/
def Obligations.CompleteExactlyAtEncoding : Prop :=
  ∀ i : Instr, i.wellFormed = true →
    complete (encode i) = true ∧
      ∀ n, n < (encode i).length → complete ((encode i).take n) = false

/-- R113, R118: a complete buffer is one whole command, or a single illegal opcode byte. -/
def Obligations.CompleteBufferIsOneCommand : Prop :=
  ∀ buf : List Byte, complete buf = true →
    (∃ i, decode buf = .ok (i, []) ∧ i.wellFormed = true) ∨
      ∃ b, buf = [b] ∧ opcodeOf b = none ∧ decode buf = .error (.illegalOpcode b)

/-- R110, R117: words written out from the opcode map, at least one of each format with operands, decode to
the commands they stand for. -/
def Obligations.SpecWordsDecode : Prop :=
  decode [0x02, 0x00, 0x3C] = .ok (.statusClear 0x003C, []) ∧
  decode [0x06, 0x05, 0x00, 0x00, 0x12, 0x34] = .ok (.cfgWrite 0x05 0x00001234, []) ∧
  decode [0x10, 0x00, 0x02, 0xAB, 0xCD] = .ok (.crc16 [0xAB, 0xCD], []) ∧
  decode [0x20, 0x01, 0x00, 0x00, 0x30, 0x39, 0x01, 0x4D] = .ok (.pktBuild 0x01 12345 0x01 77, []) ∧
  decode [0x22, 0x01, 0x00, 0x00, 0x30, 0x39, 0x01, 0x4D, 0x94, 0x2A] =
    .ok (.pktDeserialize [0x01, 0x00, 0x00, 0x30, 0x39, 0x01, 0x4D, 0x94, 0x2A], []) ∧
  decode [0x31, 0x02, 0x01, 0x02] = .ok (.radioTransmit [0x01, 0x02], []) ∧
  decode [0x41, 0x50] = .ok (.pwrTick 80, []) ∧
  decode [0x53, 0x4D] = .ok (.pipeBuild 77, [])

/-! ## The command port and the atomic steps (30_encoding.md, 20_memory.md) -/

/-- R112: where the host's next byte completes a command at an open port, the step executes that command
on the state with the byte taken from the host and the command buffer emptied. -/
def Obligations.StepRunsDecodedCommand : Prop :=
  ∀ (s : State) (sched : List AgentStep) (b : Byte) (bytes : List Byte) (i : Instr),
    s.phase = .idle → s.resp = none →
    s.env.sched = .hostWrite :: sched → s.env.hostBytes = b :: bytes →
    decode (s.cmdBuf ++ [b]) = .ok (i, []) →
    step s = exec i { s with cmdBuf := [], env := { s.env with sched := sched, hostBytes := bytes } }

/-- R118: the opcode bytes that name no command are those of the listed ranges, and one that comes where an
opcode is due is a complete command, answered `E_OPCODE`; nothing else changes. -/
def Obligations.IllegalOpcodeAnswered : Prop :=
  (∀ b : Byte, opcodeOf b = none ↔
    (0x07 ≤ b.toNat ∧ b.toNat ≤ 0x0F) ∨ (0x11 ≤ b.toNat ∧ b.toNat ≤ 0x1F) ∨
    (0x24 ≤ b.toNat ∧ b.toNat ≤ 0x2F) ∨ (0x38 ≤ b.toNat ∧ b.toNat ≤ 0x3F) ∨
    (0x42 ≤ b.toNat ∧ b.toNat ≤ 0x4F) ∨ (0x57 ≤ b.toNat ∧ b.toNat ≤ 0xFF)) ∧
  ∀ (s : State) (sched : List AgentStep) (b : Byte) (bytes : List Byte),
    s.phase = .idle → s.resp = none → s.cmdBuf = [] →
    s.env.sched = .hostWrite :: sched → s.env.hostBytes = b :: bytes →
    opcodeOf b = none →
    step s = .next (answer 0x01 []
      { s with env := { s.env with sched := sched, hostBytes := bytes } })

/-- R112: while a command runs or its response is unread the port takes no byte; it waits in the host. -/
def Obligations.ClosedPortTakesNoByte : Prop :=
  ∀ (s : State) (sched : List AgentStep),
    s.env.sched = .hostWrite :: sched → s.phase ≠ .idle ∨ s.resp ≠ none →
    step s = .next { s with env := { s.env with sched := sched } }

/-- R114: a byte that does not complete a command is kept, and nothing else happens. -/
def Obligations.PartialCommandWaits : Prop :=
  ∀ (s : State) (sched : List AgentStep) (b : Byte) (bytes : List Byte),
    s.phase = .idle → s.resp = none →
    s.env.sched = .hostWrite :: sched → s.env.hostBytes = b :: bytes →
    complete (s.cmdBuf ++ [b]) = false →
    step s = .next
      { s with cmdBuf := s.cmdBuf ++ [b],
               env := { s.env with sched := sched, hostBytes := bytes } }

/-- R344: no error stops the machine; every step of every agent, and every command, answers a next
state. -/
def Obligations.EveryStepGoesOn : Prop :=
  (∀ s : State, goesOn (step s)) ∧ ∀ (i : Instr) (s : State), goesOn (exec i s)

/-- R86, R58, R59, R380: the host's read, RxDone, TxDone and the reset input. That a scheduled RxDone outside
ReceivingContinuous, or a TxDone outside the transmit wait, is skipped is the model's choice (log 5), and that
the reset input is an agent's step is its reading of R380 (log 14). -/
def Obligations.HostReadRadioEventsReset : Prop :=
  ∀ (s : State) (sched : List AgentStep),
    (∀ r, s.env.sched = .hostRead :: sched → s.resp = some r →
      step s = .next
        { s with resp := none, env := { s.env with sched := sched, hostGot := s.env.hostGot ++ [r] } }) ∧
    (∀ f raw, s.env.sched = .rxDone f raw :: sched → f.length ≤ 255 →
      step s = .next
        (if s.radioMode = .receivingContinuous then
          { s with radio := { s.radio with frame := f, rawRssi := raw }, rxPending := true,
                   env := { s.env with sched := sched } }
         else { s with env := { s.env with sched := sched } })) ∧
    (∀ c k l w, s.env.sched = .txDone :: sched → s.phase = .running c k l w →
      step s = .next
        (match w with
         | .tx _ =>
           { s with radio := { s.radio with irqTxDone := true }, env := { s.env with sched := sched } }
         | _ => { s with env := { s.env with sched := sched } })) ∧
    (s.env.sched = .txDone :: sched → s.phase = .idle →
      step s = .next { s with env := { s.env with sched := sched } }) ∧
    (s.env.sched = .powerOnReset :: sched →
      step s = .next (State.resetWith s.par s.radio { s.env with sched := sched }))

/-- R87, R251: a tick with no command suspended adds 1 to the time base, runs the grace comparator
against the new time and changes nothing else. -/
def Obligations.IdleTickAdvancesTimeAndGrace : Prop :=
  ∀ (s : State) (sched : List AgentStep),
    s.env.sched = .tick :: sched → s.phase = .idle →
    step s = .next
      { s with nowMs := s.nowMs + 1,
               graceDone := s.graceDone || decide (s.par.bootGraceMs ≤ (s.nowMs + 1).toNat),
               env := { s.env with sched := sched } }

/-- R282, R283, R280: a trigger outside the sleep waits is accepted when none was accepted before or the
refractory window is over; an accepted one updates the stamp and pushes motion or records the drop; a
rejected one has no effect. -/
def Obligations.TriggerDebouncedAndPushed : Prop :=
  ∀ (s : State) (sched : List AgentStep),
    s.env.sched = .trigger :: sched → sleepingIn s.phase = none →
    step s = .next
      (if s.anyAccepted = false ∨ s.par.debounceMs ≤ (s.nowMs - s.lastAcceptMs).toNat then
         if s.evq.length < s.par.evqCap then
           { s with lastAcceptMs := s.nowMs, anyAccepted := true, evq := s.evq ++ [0x01],
                    env := { s.env with sched := sched } }
         else
           { s with lastAcceptMs := s.nowMs, anyAccepted := true,
                    counters := { s.counters with evqDrop := s.counters.evqDrop + 1 },
                    sticky := { s.sticky with overflowSeen := true },
                    env := { s.env with sched := sched } }
       else { s with env := { s.env with sched := sched } })

/-- R284: after a trigger accepted while no sleep wait holds, `n` ticks with no command suspended and with
`n` below the debounce window leave a second trigger without any effect. -/
def Obligations.SecondTriggerInWindowRejected : Prop :=
  ∀ (s : State) (n : Nat),
    s.phase = .idle → triggerAccepted s = true → n < s.par.debounceMs → n < 2 ^ 32 →
    (triggerStep s).lastAcceptMs = s.nowMs ∧
      triggerStep (ticks n (triggerStep s)) = ticks n (triggerStep s)

/-- R95: a trigger, a host read, the radio's own events and a reset issue no radio op; neither does a tick
with no command suspended. -/
def Obligations.RadioOpsOnlyFromSequencer : Prop :=
  ∀ (s t : State) (a : AgentStep) (sched : List AgentStep),
    s.env.sched = a :: sched → a ≠ .hostWrite → (a = .tick → s.phase = .idle) →
    step s = .next t → t.radio.ops = s.radio.ops

/-! ## CRC generator (40_crc.md) -/

/-- R154: with the other parameters fixed, `crc16` is affine over GF(2) in its input bits. -/
def Obligations.Crc16Affine : Prop :=
  ∀ (p : Params) (a b c : List Byte), a.length = b.length → b.length = c.length →
    crc16 p (List.zipWith (· ^^^ ·) a (List.zipWith (· ^^^ ·) b c)) =
      crc16 p a ^^^ crc16 p b ^^^ crc16 p c

/-- R154: flipping any single bit of the input changes the result, under every setting of the other
parameters. -/
def Obligations.Crc16SingleBitFlip : Prop :=
  ∀ (p : Params) (pre post : List Byte) (b : Byte) (j : Nat), p.crcPoly = 0x1021 → j < 8 →
    crc16 p (pre ++ [b ^^^ (1#8 <<< j)] ++ post) ≠ crc16 p (pre ++ [b] ++ post)

/-- R152: the check value of "123456789" and the value of the empty sequence, default parameters. -/
def Obligations.Crc16CheckValues : Prop :=
  ∀ (v : Variant) (r : CfgRegs),
    crc16 (Config.defaults v r) [0x31, 0x32, 0x33, 0x34, 0x35, 0x36, 0x37, 0x38, 0x39] = 0x29B1 ∧
    crc16 (Config.defaults v r) [] = 0xFFFF

/-- R155, R153: CRC16 answers `be16(crc16(data))` and writes no state. -/
def Obligations.Crc16CommandResult : Prop :=
  ∀ (data : List Byte) (s : State),
    exec (.crc16 data) s = .next (answer 0x00 (be16 (crc16 s.par data)) s)

/-! ## Codec (41_codec.md) -/

/-- R172 to R175: what the four codec commands write and answer, and that they change nothing else. -/
def Obligations.CodecCommandResults : Prop :=
  ∀ (s : State),
    (∀ n ts e b,
      exec (.pktBuild n ts e b) s = .next (answer 0x00 []
        { s with pkt := ⟨n, ts, e, b, crc16 s.par ([n] ++ be32 ts ++ [e, b])⟩ })) ∧
    exec .pktSerialize s = .next (answer 0x00
      ([s.pkt.nodeId] ++ be32 s.pkt.timestamp ++ [s.pkt.eventType, s.pkt.batteryLevel]
        ++ be16 s.pkt.crc) s) ∧
    (∀ f0 f1 f2 f3 f4 f5 f6 f7 f8,
      exec (.pktDeserialize [f0, f1, f2, f3, f4, f5, f6, f7, f8]) s = .next (answer 0x00 []
        { s with pkt := ⟨f0, fromBe32 f1 f2 f3 f4, f5, f6, fromBe16 f7 f8⟩ })) ∧
    exec .pktValidate s = .next (answer 0x00
      [if crc16 s.par ([s.pkt.nodeId] ++ be32 s.pkt.timestamp
          ++ [s.pkt.eventType, s.pkt.batteryLevel]) = s.pkt.crc then 1 else 0] s)

/-- R176: `unframe` and `frame` are mutually inverse bijections between Packets and 9-byte sequences; PKT_BUILD,
PKT_SERIALIZE and PKT_DESERIALIZE of the result leave the packet register as PKT_BUILD left it, and
PKT_VALIDATE then gives 1. -/
def Obligations.CodecRoundTrip : Prop :=
  (∀ p : Packet, (frame p).length = 9 ∧ unframe (frame p) = p) ∧
  (∀ f : List Byte, f.length = 9 → frame (unframe f) = f) ∧
  ∀ (s : State) (n : Byte) (ts : Word) (e b : Byte),
    ∃ s1 s2 s3 s4 f, exec (.pktBuild n ts e b) s = .next s1 ∧
      exec .pktSerialize s1 = .next s2 ∧ s2.resp = some (0x00 :: f) ∧ f.length = 9 ∧
      exec (.pktDeserialize f) s2 = .next s3 ∧ s3.pkt = s1.pkt ∧
      exec .pktValidate s3 = .next s4 ∧ s4.resp = some [0x00, 1]

/-! ## Control, status and configuration (45_control.md) -/

/-- R320, R324, R207, R211, R250, R292: NOP, TIME_READ, RADIO_POLL, RADIO_RSSI, PWR_NOTIFY and
QUEUE_STATUS. That QUEUE_STATUS answers a count above 255, which R11 excludes, modulo 256 is the model's choice
(log 21). -/
def Obligations.SimpleCommandResults : Prop :=
  ∀ s : State,
    exec .nop s = .next (answer 0x00 [] s) ∧
    exec .timeRead s = .next (answer 0x00 (be32 s.nowMs) s) ∧
    exec .radioPoll s = .next (answer 0x00 [if s.rxPending then 1 else 0] s) ∧
    exec .radioRssi s = .next (answer 0x00 (be16 s.lastRssi) s) ∧
    exec .pwrNotify s = .next (answer 0x00 [] { s with lastActivityMs := s.nowMs }) ∧
    exec .queueStatus s = .next (answer 0x00
      [BitVec.ofNat 8 s.evq.length, BitVec.ofNat 8 s.txq.length, BitVec.ofNat 8 s.rxq.length] s)

/-- R33, R321: STATUS_READ answers, big-endian, the word whose fields are those of the STATUS table, and
changes nothing. -/
def Obligations.StatusReadFields : Prop :=
  ∀ s : State, ∃ v : Half,
    exec .statusRead s = .next (answer 0x00 (be16 v) s) ∧
    v.getLsbD 0 = s.configured ∧ v.getLsbD 1 = s.rxPending ∧
    v.getLsbD 2 = s.sticky.transportFault ∧ v.getLsbD 3 = s.sticky.txTimeoutSeen ∧
    v.getLsbD 4 = s.sticky.crcErrSeen ∧ v.getLsbD 5 = s.sticky.overflowSeen ∧
    v.getLsbD 6 = s.extPowered ∧ v.getLsbD 7 = s.graceDone ∧
    v.extractLsb' 8 2 =
      (match s.radioMode with
       | .sleep => 0#2 | .standby => 1#2 | .transmitting => 2#2 | .receivingContinuous => 3#2) ∧
    v.extractLsb' 10 2 =
      (match s.pwrState with | .active => 0#2 | .lightSleep => 1#2 | .deepSleep => 2#2) ∧
    v.getLsbD 12 = decide (s.par.variant = .B) ∧ v.getLsbD 13 = s.battSampled ∧
    v.extractLsb' 14 2 = 0#2

/-- R34: where the power state agrees with the phase, a STATUS_READ never shows a sleeping power state; where
the radio mode agrees with the phase in variant A, it never shows Transmitting. The premises are invariants of
their own (`PowerStateMatchesPhase`, `VariantAModesKept`). In variant B a transport fault can leave Transmitting
behind (R197; log 12). -/
def Obligations.StatusReadsNoTransientMode : Prop :=
  ∀ s : State, s.phase = .idle → powerMatchesPhase s → ∃ hi lo : Byte,
    exec .statusRead s = .next (answer 0x00 [hi, lo] s) ∧ hi.extractLsb' 2 2 = 0#2 ∧
      (s.par.variant = .A → variantAModes s → hi.extractLsb' 0 2 ≠ 2#2)

/-- R322, R33: STATUS_CLEAR clears exactly the bits 2 to 5 of STATUS that its mask names, and changes
nothing but sticky bits. -/
def Obligations.StatusClearMask : Prop :=
  ∀ (s : State) (mask : Half), ∃ b : Sticky,
    exec (.statusClear mask) s = .next (answer 0x00 [] { s with sticky := b }) ∧
    statusWord { s with sticky := b } = statusWord s &&& ~~~(mask &&& 0x003C)

/-- R323, R325: CNT_READ and CFG_READ answer each counter and each register, big-endian, 0x07 reading
`P_PAYLOAD_LEN`, which is 9, and `E_ARG` for an unmapped index; neither changes anything. -/
def Obligations.IndexReadResults : Prop :=
  ∀ s : State,
    exec (.cntRead 0) s = .next (answer 0x00 (be32 s.counters.crcErr) s) ∧
    exec (.cntRead 1) s = .next (answer 0x00 (be32 s.counters.evqDrop) s) ∧
    exec (.cntRead 2) s = .next (answer 0x00 (be32 s.counters.txqDrop) s) ∧
    exec (.cntRead 3) s = .next (answer 0x00 (be32 s.counters.rxqDrop) s) ∧
    (∀ idx : Byte, 3 < idx.toNat → exec (.cntRead idx) s = .next (answer 0x02 [] s)) ∧
    exec (.cfgRead 0) s = .next (answer 0x00 (be32 (s.cfg.nodeId.setWidth 32)) s) ∧
    exec (.cfgRead 1) s = .next (answer 0x00 (be32 s.cfg.frequency) s) ∧
    exec (.cfgRead 2) s = .next (answer 0x00 (be32 (s.cfg.bandwidth.setWidth 32)) s) ∧
    exec (.cfgRead 3) s = .next (answer 0x00 (be32 (s.cfg.spreadingFactor.setWidth 32)) s) ∧
    exec (.cfgRead 4) s = .next (answer 0x00 (be32 (s.cfg.codingRate.setWidth 32)) s) ∧
    exec (.cfgRead 5) s = .next (answer 0x00 (be32 (s.cfg.syncWord.setWidth 32)) s) ∧
    exec (.cfgRead 6) s = .next (answer 0x00 (be32 (s.cfg.txPower.setWidth 32)) s) ∧
    exec (.cfgRead 7) s = .next (answer 0x00 [0x00, 0x00, 0x00, s.par.payloadLen] s) ∧
    (∀ v r, (Config.defaults v r).payloadLen = 0x09) ∧
    (∀ idx : Byte, 7 < idx.toNat → exec (.cfgRead idx) s = .next (answer 0x02 [] s))

/-- R326, R50: CFG_WRITE keeps the value's low bits up to the register's width, leaves every other register
and all other state alone, and answers `E_ARG` with no effect for 0x07 and the unmapped indices. -/
def Obligations.CfgWriteThenRead : Prop :=
  ∀ (s : State) (idx : Byte) (v : Word),
    (idx.toNat < 7 → ∃ r : CfgRegs,
      exec (.cfgWrite idx v) s = .next (answer 0x00 [] { s with cfg := r }) ∧
      cfgRead s.par idx r = some
        (v &&& if idx = 1 then 0xFFFFFFFF else if idx = 5 then 0x0000FFFF else 0x000000FF) ∧
      ∀ j : Byte, j ≠ idx → cfgRead s.par j r = cfgRead s.par j s.cfg) ∧
    (7 ≤ idx.toNat → exec (.cfgWrite idx v) s = .next (answer 0x02 [] s))

/-- R88: the commands that only read state answer without changing anything, and give the same response
when issued again. -/
def Obligations.ReadCommandsIdempotent : Prop :=
  ∀ (s : State) (i : Instr),
    (i ∈ [Instr.statusRead, .timeRead, .radioPoll, .radioRssi, .queueStatus, .pktSerialize,
        .pktValidate] ∨ (∃ x, i = .cntRead x) ∨ (∃ x, i = .cfgRead x) ∨ ∃ d, i = .crc16 d) →
    ∃ code pl, exec i s = .next (answer code pl s) ∧
      ∀ t, exec i s = .next t → exec i { t with resp := none } = .next (answer code pl s)

/-- R198, R119, R208, R295, R297, R342: the refusals of the radio and pipeline commands, which change nothing,
with the precedence of the rules. -/
def Obligations.RefusalsChangeNothing : Prop :=
  ∀ s : State,
    exec (.radioTransmit []) s = .next (answer 0x02 [] s) ∧
    exec (.radioReceive 0) s = .next (answer 0x02 [] s) ∧
    (s.rxPending = false →
      (∀ m : Byte, m ≠ 0 → exec (.radioReceive m) s = .next (answer 0x09 [] s)) ∧
      exec .pipeRecv s = .next (answer 0x09 [] s)) ∧
    (s.configured = false →
      (∀ d : List Byte, d ≠ [] → exec (.radioTransmit d) s = .next (answer 0x08 [] s)) ∧
      exec .radioRxStart s = .next (answer 0x08 [] s) ∧
      exec .pipeSend s = .next (answer 0x08 [] s) ∧
      (s.radioMode = .standby → exec .radioWake s = .next (answer 0x08 [] s))) ∧
    (s.configured = true → s.txq = [] → exec .pipeSend s = .next (answer 0x03 [] s))

/-! ## FIFOs and pipeline (44_fifo_pipeline.md) -/

/-- R290, R291, R299: EVQ_PUSH appends at the tail, or drops the newest item; EVQ_POP and RXQ_POP take the
head, or answer `E_EMPTY` with nothing changed. -/
def Obligations.FifoCommandResults : Prop :=
  ∀ (s : State),
    (∀ e, exec (.evqPush e) s = .next
      (if s.evq.length < s.par.evqCap then answer 0x00 [] { s with evq := s.evq ++ [e] }
       else answer 0x04 []
        { s with counters := { s.counters with evqDrop := s.counters.evqDrop + 1 },
                 sticky := { s.sticky with overflowSeen := true } })) ∧
    (s.evq = [] → exec .evqPop s = .next (answer 0x03 [] s)) ∧
    (∀ e q, s.evq = e :: q → exec .evqPop s = .next (answer 0x00 [e] { s with evq := q })) ∧
    (s.rxq = [] → exec .rxqPop s = .next (answer 0x03 [] s)) ∧
    (∀ p q, s.rxq = p :: q →
      exec .rxqPop s = .next (answer 0x00
        ([p.nodeId] ++ be32 p.timestamp ++ [p.eventType, p.batteryLevel] ++ be16 p.crc)
        { s with rxq := q }))

/-- R293: PIPE_BUILD pops one event, builds its packet from NODE_ID, the time base and the operand, stamps
the activity time and pushes the packet, or drops it; with no event it answers `E_EMPTY`, nothing changed. -/
def Obligations.PipeBuildResult : Prop :=
  ∀ (s : State) (b : Byte),
    (s.evq = [] → exec (.pipeBuild b) s = .next (answer 0x03 [] s)) ∧
    ∀ (e : Byte) (q : List Byte), s.evq = e :: q →
      exec (.pipeBuild b) s = .next
        (if s.txq.length < s.par.txqCap then
          answer 0x00 []
            { s with evq := q, lastActivityMs := s.nowMs,
                     txq := s.txq ++ [⟨s.cfg.nodeId, s.nowMs, e, b,
                       crc16 s.par ([s.cfg.nodeId] ++ be32 s.nowMs ++ [e, b])⟩] }
         else answer 0x04 []
          { s with evq := q, lastActivityMs := s.nowMs,
                   counters := { s.counters with txqDrop := s.counters.txqDrop + 1 },
                   sticky := { s.sticky with overflowSeen := true } })

/-- R297, R298, R208: PIPE_RECV in variant A takes the pending frame, re-arms, and queues the packet of a
frame of 9 bytes whose CRC holds, or records the drop; any other frame is an integrity failure. -/
def Obligations.PipeRecvResult : Prop :=
  ∀ s : State, s.par.variant = .A → s.rxPending = true →
    ∀ u : State,
      u = { s with lastRssi := rssiDbm s.par s.radio.rawRssi, rxPending := false,
                   radioMode := .receivingContinuous,
                   radio := { s.radio with
                     irqTxDone := false
                     ops := s.radio.ops ++ [.readFrame, .clearIrq, .setMode .rxCont] } } →
      exec .pipeRecv s = .next
        (if s.radio.frame.length = 9 ∧
            crc16 s.par (s.radio.frame.take 7) = (unframe s.radio.frame).crc then
          if s.rxq.length < s.par.rxqCap then
            answer 0x00 [] { u with rxq := s.rxq ++ [unframe s.radio.frame] }
          else answer 0x04 []
            { u with counters := { s.counters with rxqDrop := s.counters.rxqDrop + 1 },
                     sticky := { s.sticky with overflowSeen := true } }
         else answer 0x0A []
            { u with counters := { s.counters with crcErr := s.counters.crcErr + 1 },
                     sticky := { s.sticky with crcErrSeen := true } })

/-- R52, R53, R54: every step keeps each FIFO within its capacity. -/
def Obligations.FifosStayBounded : Prop :=
  ∀ s t : State, fifosBounded s → step s = .next t → fifosBounded t

/-! ## Transceiver (42_transceiver.md) -/

/-- R205: RADIO_INIT in variant A: the ops it issues and its outcome for either answer of the Probe. -/
def Obligations.RadioInitResult : Prop :=
  ∀ (s : State) (p : Bool) (rest : List Bool),
    s.par.variant = .A → s.env.present = p :: rest →
    exec .radioInit s = .next
      (if p then
        answer 0x00 []
          { s with configured := true, radioMode := .standby,
                   rxPending := decide (s.radioMode = .standby) && s.rxPending,
                   radio := { s.radio with
                     ops := s.radio.ops ++ [.probe] ++
                       (if s.radioMode = .standby then [] else [.setMode .standby]) ++
                       [.configure [s.cfg.frequency, s.cfg.bandwidth.setWidth 32,
                         s.cfg.spreadingFactor.setWidth 32, s.cfg.codingRate.setWidth 32,
                         s.cfg.syncWord.setWidth 32, s.cfg.txPower.setWidth 32,
                         s.par.payloadLen.setWidth 32]] },
                   env := { s.env with present := rest } }
       else answer 0x07 []
          { s with configured := false, radio := { s.radio with ops := s.radio.ops ++ [.probe] },
                   env := { s.env with present := rest } })

/-- R206: in both variants, the step that starts RADIO_INIT and every tick that resumes it leave the radio
configured exactly if the command ended there with OK; while it is suspended the radio is unconfigured. -/
def Obligations.InitConfiguredExactlyIfOk : Prop :=
  (∀ s t : State, s.resp = none → exec .radioInit s = .next t →
    initPending t ∧ (t.configured = true ↔ t.phase = .idle ∧ t.resp = some [0x00])) ∧
  ∀ (s : State) (k : List Micro) (l : Locals) (w : Wait),
    s.phase = .running .radioInit k l w → initPending s →
    initPending (tickStep s) ∧
      ((tickStep s).configured = true ↔
        (tickStep s).phase = .idle ∧ (tickStep s).resp = some [0x00])

/-- R200, R295, R196: a transmit in variant A goes through Standby, clears the flags, loads the data, enters
Transmitting and suspends in the transmit wait, whose start is the time base now. -/
def Obligations.TransmitStarts : Prop :=
  ∀ (s : State), s.par.variant = .A → s.configured = true →
    ∀ started : Instr → List Byte → State → State,
      (∀ c d u, started c d u =
        { u with phase := .running c [.radio .clearIrq, .radio (.setMode .standby), .respondOk]
                   ⟨d, false, [], 0, 0⟩ (.tx u.nowMs),
                 radioMode := .transmitting, rxPending := false,
                 radio := { u.radio with
                   irqTxDone := false
                   ops := u.radio.ops ++ (if u.radioMode = .standby then [] else [.setMode .standby])
                     ++ [.clearIrq, .writePayload d, .setMode .tx] } }) →
      (∀ d, d ≠ [] → exec (.radioTransmit d) s = .next (started (.radioTransmit d) d s)) ∧
      (∀ p q, s.txq = p :: q →
        exec .pipeSend s = .next (started .pipeSend
          ([p.nodeId] ++ be32 p.timestamp ++ [p.eventType, p.batteryLevel] ++ be16 p.crc)
          { s with txq := q }))

/-- R201, R203: in variant A the first tick that finds the done-flag set ends the transmit with OK in
Standby, whatever time has elapsed. -/
def Obligations.DoneFlagEndsTransmit : Prop :=
  ∀ (s : State) (sched : List AgentStep) (c : Instr) (l : Locals) (start : Word),
    s.par.variant = .A → s.env.sched = .tick :: sched → s.radio.irqTxDone = true →
    s.phase = .running c [.radio .clearIrq, .radio (.setMode .standby), .respondOk] l (.tx start) →
    step s = .next (answer 0x00 []
      { s with nowMs := s.nowMs + 1,
               graceDone := s.graceDone || decide (s.par.bootGraceMs ≤ (s.nowMs + 1).toNat),
               radioMode := .standby, rxPending := false,
               radio := { s.radio with
                 irqTxDone := false, ops := s.radio.ops ++ [.clearIrq, .setMode .standby] },
               env := { s.env with sched := sched } })

/-- R204, R202: if the done-flag is never raised, a transmit stays suspended for every number of ticks below
`P_TX_TIMEOUT_MS`. In variant A it ends at exactly that number with `E_TIMEOUT`, TX_TIMEOUT_SEEN set, in
Standby. In variant B, where every sample of the recovery's first ready wait reads busy, it ends
`P_BUSY_RETRY_MAX - 1` ticks later with `E_TRANSPORT`, both sticky bits set, no op of the recovery performed and
the mode kept. -/
def Obligations.TransmitTimeoutExact : Prop :=
  ∀ (s : State) (c : Instr) (k : List Micro) (l : Locals),
    s.radio.irqTxDone = false → s.phase = .running c k l (.tx s.nowMs) →
    1 ≤ s.par.txTimeoutMs → s.par.txTimeoutMs < 2 ^ 32 →
    (∀ n, n < s.par.txTimeoutMs →
      (ticks n s).phase = s.phase ∧ (ticks n s).resp = s.resp ∧ (ticks n s).radio = s.radio) ∧
    (s.par.variant = .A →
      (ticks s.par.txTimeoutMs s).phase = .idle ∧ (ticks s.par.txTimeoutMs s).resp = some [0x05] ∧
      (ticks s.par.txTimeoutMs s).sticky = { s.sticky with txTimeoutSeen := true } ∧
      (ticks s.par.txTimeoutMs s).radioMode = .standby ∧
      (ticks s.par.txTimeoutMs s).radio.ops = s.radio.ops ++ [.setMode .standby, .clearIrq]) ∧
    ∀ rest : List Bool, s.par.variant = .B → (∀ b, c ≠ .pwrTick b) →
      1 ≤ s.par.busyRetryMax → s.par.busyRetryMax ≤ 256 →
      s.env.busy = List.replicate s.par.busyRetryMax true ++ rest →
      ∀ N, N = s.par.txTimeoutMs + (s.par.busyRetryMax - 1) →
        (∀ n, n < N → (ticks n s).phase ≠ .idle) ∧
        (ticks N s).phase = .idle ∧ (ticks N s).resp = some [0x06] ∧
        (ticks N s).sticky = { s.sticky with transportFault := true, txTimeoutSeen := true } ∧
        (ticks N s).radioMode = s.radioMode ∧ (ticks N s).radio = s.radio

/-- R208: RADIO_RECEIVE of a pending frame in variant A. -/
def Obligations.RadioReceiveResult : Prop :=
  ∀ (s : State) (m : Byte), s.par.variant = .A → m ≠ 0 → s.rxPending = true →
    exec (.radioReceive m) s = .next (answer 0x00
      (BitVec.ofNat 8 (min s.radio.frame.length m.toNat) ::
        s.radio.frame.take (min s.radio.frame.length m.toNat))
      { s with lastRssi := rssiDbm s.par s.radio.rawRssi, rxPending := false,
               radioMode := .receivingContinuous,
               radio := { s.radio with
                 irqTxDone := false
                 ops := s.radio.ops ++ [.readFrame, .clearIrq, .setMode .rxCont] } })

/-- R212, R213, R214: RADIO_SLEEP, RADIO_WAKE and RADIO_RX_START in variant A, mode by mode. R213 gives
RADIO_WAKE no case for Transmitting; the fourth clause is the model's choice there (log 11): one of the rule's
three arms, and one free value drawn. -/
def Obligations.RadioModeCommandResults : Prop :=
  ∀ s : State, s.par.variant = .A →
    exec .radioSleep s = .next (answer 0x00 []
      { s with radioMode := .sleep, rxPending := false,
               radio := { s.radio with ops := s.radio.ops ++ [.setMode .sleep] } }) ∧
    (s.radioMode = .sleep → exec .radioWake s = .next (answer 0x00 []
      { s with radioMode := .standby, rxPending := false,
               radio := { s.radio with ops := s.radio.ops ++ [.setMode .standby] } })) ∧
    (s.radioMode = .standby → s.configured = true → exec .radioWake s = .next (answer 0x00 []
      { s with radioMode := .receivingContinuous, rxPending := false,
               radio := { s.radio with
                 irqTxDone := false, ops := s.radio.ops ++ [.clearIrq, .setMode .rxCont] } })) ∧
    (s.radioMode = .receivingContinuous → exec .radioWake s = .next (answer 0x00 [] s)) ∧
    (s.radioMode = .transmitting →
      ∀ u : State, u = { s with env := { s.env with draws := s.env.draws + 1 } } →
        exec .radioWake s = .next (answer 0x00 []
          { u with radioMode := .standby, rxPending := false,
                   radio := { u.radio with ops := u.radio.ops ++ [.setMode .standby] } }) ∨
        exec .radioWake s = .next
          (if s.configured then answer 0x00 []
            { u with radioMode := .receivingContinuous, rxPending := false,
                     radio := { u.radio with
                       irqTxDone := false, ops := u.radio.ops ++ [.clearIrq, .setMode .rxCont] } }
           else answer 0x08 [] u) ∨
        exec .radioWake s = .next (answer 0x00 [] u)) ∧
    (s.configured = true → exec .radioRxStart s = .next
      (if s.radioMode = .receivingContinuous then answer 0x00 [] s
       else answer 0x00 []
        { s with radioMode := .receivingContinuous, rxPending := false,
                 radio := { s.radio with
                   irqTxDone := false
                   ops := s.radio.ops ++ (if s.radioMode = .standby then [] else [.setMode .standby])
                     ++ [.clearIrq, .setMode .rxCont] } }))

/-- R199: the RSSI map on unbounded integers, and its values with the default parameters. -/
def Obligations.RssiMapValue : Prop :=
  (∀ (p : Params) (raw : Byte), p.rssiDiv ≠ 0 →
    (rssiDbm p raw).toInt =
      max (-32768) (min 32767 (p.rssiOff + (p.rssiMul * (raw.toNat : Int)).tdiv p.rssiDiv))) ∧
  ∀ (r : CfgRegs) (raw : Byte),
    (rssiDbm (Config.defaults .A r) raw).toInt = (raw.toNat : Int) - 157 ∧
    (rssiDbm (Config.defaults .B r) raw).toInt = -((raw.toNat / 2 : Nat) : Int)

/-- R194, R343, R197: the busy waits of variant B. First, both waits of RADIO_SLEEP, every sample of them
listed. A ready wait in which `P_BUSY_RETRY_MAX` samples read busy ends at the sample of that number,
`P_BUSY_RETRY_MAX - 1` ticks after the call, with `E_TRANSPORT`, the op not performed. After `j` busy samples,
fewer than that, and a ready one, the op is performed and the read-back wait begins: with `r` busy samples, fewer
again, and a ready one, the command completes at tick `j + r`; with `P_BUSY_RETRY_MAX` busy ones it ends with
`E_TRANSPORT`, the op performed and the block's mode not updated. Second, every command but PWR_TICK in the ready
wait of its first op (`issuesOp`): where `P_BUSY_RETRY_MAX` samples read busy it ends with `E_TRANSPORT` at the
last of them, no op performed; RADIO_INIT's `configured <- 0` and PIPE_SEND's pop are kept, and the time base, the
grace latch, TRANSPORT_FAULT and the samples apart nothing else changes. Third, every such command suspended in any
ready or read-back wait: the tick whose sample is the one numbered `P_BUSY_RETRY_MAX` and reads busy ends it with
`E_TRANSPORT`, what it has written and the ops it has issued kept, and no further op issued. -/
def Obligations.ReadyWaitProceedsOrFaults : Prop :=
  (∀ (s : State) (rest : List Bool), s.par.variant = .B →
    1 ≤ s.par.busyRetryMax → s.par.busyRetryMax ≤ 256 →
    ∃ t, exec .radioSleep s = .next t ∧
      (s.env.busy = List.replicate s.par.busyRetryMax true ++ rest →
        faultsAt (s.par.busyRetryMax - 1) s.radio s t) ∧
      ∀ j, j < s.par.busyRetryMax →
        (∀ r, r < s.par.busyRetryMax →
          s.env.busy = List.replicate j true ++ false :: (List.replicate r true ++ false :: rest) →
            (∀ n, n < j + r → (ticks n t).phase ≠ .idle) ∧
            (ticks (j + r) t).phase = .idle ∧ (ticks (j + r) t).resp = some [0x00] ∧
            (ticks (j + r) t).sticky = s.sticky ∧
            (ticks (j + r) t).radioMode = .sleep ∧ (ticks (j + r) t).rxPending = false ∧
            (ticks (j + r) t).radio = { s.radio with ops := s.radio.ops ++ [.setMode .sleep] }) ∧
        (s.env.busy =
            List.replicate j true ++ false :: (List.replicate s.par.busyRetryMax true ++ rest) →
          faultsAt (j + (s.par.busyRetryMax - 1))
            { s.radio with ops := s.radio.ops ++ [.setMode .sleep] } s t)) ∧
  (∀ (s : State) (i : Instr) (rest : List Bool), s.par.variant = .B → issuesOp i s →
    1 ≤ s.par.busyRetryMax → s.par.busyRetryMax ≤ 256 →
    s.env.busy = List.replicate s.par.busyRetryMax true ++ rest →
    ∃ t, exec i s = .next t ∧
      (∀ n, n < s.par.busyRetryMax - 1 → (ticks n t).phase ≠ .idle ∧ (ticks n t).radio = s.radio) ∧
      ∃ g, ticks (s.par.busyRetryMax - 1) t = answer 0x06 []
        { s with configured := if i = .radioInit then false else s.configured,
                 txq := if i = .pipeSend then s.txq.tail else s.txq,
                 nowMs := s.nowMs + BitVec.ofNat 32 (s.par.busyRetryMax - 1), graceDone := g,
                 sticky := { s.sticky with transportFault := true },
                 env := { s.env with busy := rest } }) ∧
  ∀ (s : State) (sched : List AgentStep) (c : Instr) (k : List Micro) (l : Locals) (w : Wait) (n : Byte)
    (rest : List Bool),
    s.env.sched = .tick :: sched → s.phase = .running c k l w → (∀ b, c ≠ .pwrTick b) →
    ((∃ op, w = .ready op n) ∨ ∃ m, w = .readback m n) → n.toNat + 1 = s.par.busyRetryMax →
    s.env.busy = true :: rest →
    step s = .next (answer 0x06 []
      { s with nowMs := s.nowMs + 1,
               graceDone := s.graceDone || decide (s.par.bootGraceMs ≤ (s.nowMs + 1).toNat),
               sticky := { s.sticky with transportFault := true },
               env := { s.env with sched := sched, busy := rest } })

/-- R3, R193, R194: variant B with a radio that is never busy does what variant A does: command by command,
STATUS bit 12 apart, and at every tick, a command already suspended in a busy wait apart. -/
def Obligations.ReadyVariantBActsAsA : Prop :=
  ∀ s : State, s.par.variant = .B →
    16 ≤ s.env.busy.length → (∀ b, b ∈ s.env.busy → b = false) →
    (∀ (i : Instr) (t : State), i ≠ .statusRead →
      exec i s = .next t → exec i (asVariantA s) = .next (asVariantA t)) ∧
    ((∀ c k l op n, s.phase ≠ .running c k l (.ready op n)) →
      (∀ c k l m n, s.phase ≠ .running c k l (.readback m n)) →
      (linesToRun s.phase).length ≤ 8 →
      tickStep (asVariantA s) = asVariantA (tickStep s))

/-- R195: every step keeps a pending frame possible only in ReceivingContinuous. -/
def Obligations.PendingStaysOnlyInReceive : Prop :=
  ∀ s t : State, pendingOnlyInReceive s → step s = .next t → pendingOnlyInReceive t

/-- R34, R193, R201, for variant A: every step keeps the mode Transmitting to the transmit wait, and no
command suspends in a busy wait. -/
def Obligations.VariantAModesKept : Prop :=
  ∀ s t : State, variantAModes s → step s = .next t → variantAModes t

/-- R194: every step keeps the sample count of a busy wait below `P_BUSY_RETRY_MAX`, for parameters that
meet R11 and fit the 8-bit count. -/
def Obligations.BusySamplesStayBounded : Prop :=
  ∀ s t : State, s.par.wf = true → busySamplesBounded s → step s = .next t → busySamplesBounded t

/-! ## Power controller (43_power.md) -/

/-- R252, R253, R255: PWR_TICK in variant A: the latch on the first sample, then held, DeepSleep, LightSleep
or active, in the source's priority order. -/
def Obligations.PwrTickDecision : Prop :=
  ∀ (s : State) (b : Byte), s.par.variant = .A →
    ∀ u : State,
      u = { s with extPowered := if s.battSampled then s.extPowered else decide (b = 0),
                   battSampled := true } →
      ∀ asleep : SleepKind → PwrState → State,
        (∀ kind p, asleep kind p =
          { u with phase := .running (.pwrTick b) [] ⟨[], false, [], 0, 0⟩ (.sleep kind s.nowMs),
                   pwrState := p, radioMode := .sleep, rxPending := false,
                   radio := { s.radio with ops := s.radio.ops ++ [.setMode .sleep] } }) →
        exec (.pwrTick b) s = .next
          (if u.extPowered = true ∨ s.graceDone = false then answer 0x00 [0x00] u
           else if b ≠ 0 ∧ b.toNat < s.par.critPct then asleep .deep .deepSleep
           else if s.par.idleTimeoutMs ≤ (s.nowMs - s.lastActivityMs).toNat then
             asleep .light .lightSleep
           else answer 0x00 [0x01] u)

/-- R256, R257: with no trigger, LightSleep holds for every number of ticks below `P_LIGHT_SLEEP_MAX_MS` and
ends at exactly that number with action 0x03, Active, and the idle clock restarted. -/
def Obligations.LightSleepEndsOnTimer : Prop :=
  ∀ (s : State) (c : Instr) (k : List Micro) (l : Locals),
    s.phase = .running c k l (.sleep .light s.nowMs) →
    1 ≤ s.par.lightSleepMaxMs → s.par.lightSleepMaxMs < 2 ^ 32 →
    (∀ n, n < s.par.lightSleepMaxMs →
      (ticks n s).phase = s.phase ∧ (ticks n s).pwrState = s.pwrState ∧ (ticks n s).resp = s.resp) ∧
    (ticks s.par.lightSleepMaxMs s).phase = .idle ∧
    (ticks s.par.lightSleepMaxMs s).resp = some [0x00, 0x03] ∧
    (ticks s.par.lightSleepMaxMs s).pwrState = .active ∧
    (ticks s.par.lightSleepMaxMs s).lastActivityMs = s.nowMs + BitVec.ofNat 32 s.par.lightSleepMaxMs

/-- R258, R380: with no trigger, DeepSleep holds, with no response, for every number of ticks below
`P_DEEP_SLEEP_MAX_MS` and at exactly that number is a reset of the whole block. -/
def Obligations.DeepSleepEndsInReset : Prop :=
  ∀ (s : State) (c : Instr) (k : List Micro) (l : Locals),
    s.phase = .running c k l (.sleep .deep s.nowMs) →
    1 ≤ s.par.deepSleepMaxMs → s.par.deepSleepMaxMs < 2 ^ 32 →
    (∀ n, n < s.par.deepSleepMaxMs →
      (ticks n s).phase = s.phase ∧ (ticks n s).resp = s.resp) ∧
    ticks s.par.deepSleepMaxMs s = State.resetWith s.par s.radio s.env

/-- R256, R257, R258, R283: every trigger in LightSleep wakes with action 0x02; an accepted one then sets the
stamp and pushes motion or records the drop, and a rejected one has no further effect. In DeepSleep a trigger
resets the block and is not pushed. -/
def Obligations.TriggersWake : Prop :=
  ∀ (s : State) (sched : List AgentStep) (c : Instr) (k : List Micro) (l : Locals) (start : Word),
    s.env.sched = .trigger :: sched →
    (s.phase = .running c k l (.sleep .deep start) →
      step s = .next (State.resetWith s.par s.radio { s.env with sched := sched })) ∧
    (s.phase = .running c k l (.sleep .light start) →
      ∀ u : State,
        u = answer 0x00 [0x02]
          { s with pwrState := .active, lastActivityMs := s.nowMs, env := { s.env with sched := sched } } →
        step s = .next
          (if s.anyAccepted = false ∨ s.par.debounceMs ≤ (s.nowMs - s.lastAcceptMs).toNat then
             if s.evq.length < s.par.evqCap then
               { u with lastAcceptMs := s.nowMs, anyAccepted := true, evq := s.evq ++ [0x01] }
             else
               { u with lastAcceptMs := s.nowMs, anyAccepted := true,
                        counters := { s.counters with evqDrop := s.counters.evqDrop + 1 },
                        sticky := { s.sticky with overflowSeen := true } }
           else u))

/-- R253, R255, R343: in variant B a transport fault during the entry of either sleep sets TRANSPORT_FAULT and the
sleep goes on: the command stays suspended, the sleep starts at the tick of the fault, and the radio mode stays.
The fault may come in the ready wait, the op not performed, or, after `j` busy samples and a ready one, in the
read-back wait, the op performed. -/
def Obligations.SleepEntrySurvivesTransportFault : Prop :=
  ∀ (s : State) (b : Byte) (kind : SleepKind) (rest : List Bool), s.par.variant = .B →
    1 ≤ s.par.busyRetryMax → s.par.busyRetryMax ≤ 256 →
    s.graceDone = true → (if s.battSampled = true then s.extPowered = false else b ≠ 0) →
    (match kind with
     | .deep => b ≠ 0 ∧ b.toNat < s.par.critPct
     | .light => (b = 0 ∨ s.par.critPct ≤ b.toNat) ∧
        s.par.idleTimeoutMs ≤ (s.nowMs - s.lastActivityMs).toNat) →
    ∃ t, exec (.pwrTick b) s = .next t ∧
      (s.env.busy = List.replicate s.par.busyRetryMax true ++ rest →
        sleepsFaultedAt (s.par.busyRetryMax - 1) kind b s.radio s t) ∧
      ∀ j, j < s.par.busyRetryMax →
        s.env.busy =
          List.replicate j true ++ false :: (List.replicate s.par.busyRetryMax true ++ rest) →
        sleepsFaultedAt (j + (s.par.busyRetryMax - 1)) kind b
          { s.radio with ops := s.radio.ops ++ [.setMode .sleep] } s t

/-- R259 (a), R252: every step keeps an externally powered block out of sleep. The premise `powerMatchesPhase`
is an invariant of its own (`PowerStateMatchesPhase`). -/
def Obligations.ExtPoweredStaysAwake : Prop :=
  ∀ s t : State, powerMatchesPhase s → extPoweredAwake s → step s = .next t → extPoweredAwake t

/-- R255 to R258, R34: every step keeps the power state in agreement with the sleep wait. -/
def Obligations.PowerStateMatchesPhase : Prop :=
  ∀ s t : State, powerMatchesPhase s → step s = .next t → powerMatchesPhase t

/-- R251: every step keeps the grace window closed where the time base has reached its length; and once
`grace_done` is 1 every step but a reset keeps it 1, so a wrap of the time base does not reopen the window. -/
def Obligations.GraceStaysClosed : Prop :=
  (∀ s t : State, graceClosed s → step s = .next t → graceClosed t) ∧
  ∀ s t : State, s.graceDone = true → resetsNext s = false → step s = .next t → t.graceDone = true

/-! ## The whole machine -/

/-- R112 to R114: every step keeps the port quiet while a command runs, and the command buffer short of a
whole command. -/
def Obligations.PortStaysQuiet : Prop :=
  ∀ s t : State, portQuiet s → step s = .next t → portQuiet t

/-- R31, R33, R40 to R54, R94, R195, R250, R352: which commands write which registers, sticky bits and counters
in the step that begins them. No command writes the time base, the grace latch, the debounce registers, the
command buffer or the parameters. What a resumed command writes is `StepsWriteOnlyTheirRegisters`. -/
def Obligations.CommandsWriteOnlyTheirRegisters : Prop :=
  ∀ (i : Instr) (s t : State), exec i s = .next t →
    t.par = s.par ∧ t.nowMs = s.nowMs ∧ t.graceDone = s.graceDone ∧
    t.lastAcceptMs = s.lastAcceptMs ∧ t.anyAccepted = s.anyAccepted ∧ t.cmdBuf = s.cmdBuf ∧
    (t.pkt ≠ s.pkt → instrOpcode i = .pktBuild ∨ instrOpcode i = .pktDeserialize) ∧
    (t.cfg ≠ s.cfg → instrOpcode i = .cfgWrite) ∧
    (t.lastRssi ≠ s.lastRssi → instrOpcode i = .radioReceive ∨ instrOpcode i = .pipeRecv) ∧
    (t.lastActivityMs ≠ s.lastActivityMs → instrOpcode i = .pwrNotify ∨ instrOpcode i = .pipeBuild) ∧
    (t.extPowered ≠ s.extPowered ∨ t.battSampled ≠ s.battSampled ∨ t.pwrState ≠ s.pwrState →
      instrOpcode i = .pwrTick) ∧
    (t.configured ≠ s.configured → instrOpcode i = .radioInit) ∧
    (t.radioMode ≠ s.radioMode ∨ t.rxPending ≠ s.rxPending ∨ t.radio ≠ s.radio →
      instrOpcode i ∈ radioOpcodes) ∧
    (t.evq ≠ s.evq → instrOpcode i = .evqPush ∨ instrOpcode i = .evqPop ∨ instrOpcode i = .pipeBuild) ∧
    (t.txq ≠ s.txq → instrOpcode i = .pipeBuild ∨ instrOpcode i = .pipeSend) ∧
    (t.rxq ≠ s.rxq → instrOpcode i = .pipeRecv ∨ instrOpcode i = .rxqPop) ∧
    (t.counters.crcErr ≠ s.counters.crcErr → instrOpcode i = .pipeRecv) ∧
    (t.counters.evqDrop ≠ s.counters.evqDrop → instrOpcode i = .evqPush) ∧
    (t.counters.txqDrop ≠ s.counters.txqDrop → instrOpcode i = .pipeBuild) ∧
    (t.counters.rxqDrop ≠ s.counters.rxqDrop → instrOpcode i = .pipeRecv) ∧
    (t.sticky.transportFault ≠ s.sticky.transportFault →
      instrOpcode i = .statusClear ∨ instrOpcode i ∈ radioOpcodes ∧ s.par.variant = .B) ∧
    (t.sticky.txTimeoutSeen ≠ s.sticky.txTimeoutSeen → instrOpcode i = .statusClear) ∧
    (t.sticky.crcErrSeen ≠ s.sticky.crcErrSeen →
      instrOpcode i = .statusClear ∨ instrOpcode i = .pipeRecv) ∧
    (t.sticky.overflowSeen ≠ s.sticky.overflowSeen →
      instrOpcode i = .statusClear ∨ instrOpcode i = .evqPush ∨ instrOpcode i = .pipeBuild ∨
        instrOpcode i = .pipeRecv)

/-- R51, R349, R33: a command, and every step but a reset, changes a counter only by adding 1 to it, and clears
a sticky bit only where the command is STATUS_CLEAR. -/
def Obligations.CountersAndStickyBitsGrow : Prop :=
  (∀ (i : Instr) (s t : State), exec i s = .next t →
    countersGrow s t ∧ (instrOpcode i ≠ .statusClear → stickyKept s t)) ∧
  ∀ s t : State, resetsNext s = false → step s = .next t →
    countersGrow s t ∧ ((∀ mask, commandBegun s ≠ some (.statusClear mask)) → stickyKept s t)

/-- R382, R381, R380: what the reset input leaves, for every setting of the parameters, configuration register
0x07 reading `P_PAYLOAD_LEN` as ever; and that every step that resets, the DeepSleep wake among them, leaves
it. That the reset input is an agent's step, which may come in every state, is the model's reading of R380
(log 14). -/
def Obligations.ResetValues : Prop :=
  (∀ (s : State) (sched : List AgentStep), s.env.sched = .powerOnReset :: sched → ∃ t : State,
    step s = .next t ∧ cfgRead t.par 0x07 t.cfg = some (s.par.payloadLen.setWidth 32) ∧
    t =
      { s with phase := .idle, sticky := ⟨false, false, false, false⟩, pkt := ⟨0, 0, 0, 0, 0⟩,
               lastRssi := 0, nowMs := 0, lastActivityMs := 0, lastAcceptMs := 0,
               anyAccepted := false, extPowered := false, battSampled := false,
               graceDone := decide (s.par.bootGraceMs = 0), pwrState := .active,
               radioMode := .sleep, configured := false, rxPending := false, cfg := s.par.cfgReset,
               counters := ⟨0, 0, 0, 0⟩, evq := [], txq := [], rxq := [], cmdBuf := [], resp := none,
               env := { s.env with sched := sched } }) ∧
  ∀ s : State, resetsNext s = true →
    step s = .next (State.resetWith s.par s.radio (drawStep s).2.env)

/-- Each invariant holds after a reset, for every setting of the parameters and every radio and
environment, so it holds at `State.reset`. -/
def Obligations.InvariantsHoldAtReset : Prop :=
  ∀ (p : Params) (radio : Radio) (env : Env), ∀ s : State, s = State.resetWith p radio env →
    fifosBounded s ∧ pendingOnlyInReceive s ∧ portQuiet s ∧ powerMatchesPhase s ∧ extPoweredAwake s ∧
      busySamplesBounded s ∧ variantAModes s ∧ graceClosed s

/-- R94, R42, R43, R44, R86, R87, R251: which agents' steps write which registers, in every state, a reset
apart: only the trigger writes the debounce registers, only the tick the time base and the grace latch; a tick
writes the registers of a suspended command only through the lines it has still to run, or the end of its wait;
the host's read and TxDone write none. -/
def Obligations.StepsWriteOnlyTheirRegisters : Prop :=
  ∀ (s t u : State) (a : AgentStep), drawStep s = (a, u) → resetsNext s = false → step s = .next t →
    ∀ k : List Micro, k = linesToRun s.phase →
    t.par = s.par ∧
    (t.nowMs ≠ s.nowMs ∨ t.graceDone ≠ s.graceDone → a = .tick) ∧
    (t.lastAcceptMs ≠ s.lastAcceptMs ∨ t.anyAccepted ≠ s.anyAccepted → a = .trigger) ∧
    (t.pkt ≠ s.pkt ∨ t.cfg ≠ s.cfg ∨ t.extPowered ≠ s.extPowered ∨ t.battSampled ≠ s.battSampled ∨
        t.txq ≠ s.txq ∨ t.counters.txqDrop ≠ s.counters.txqDrop ∨ t.cmdBuf ≠ s.cmdBuf →
      a = .hostWrite) ∧
    (t.evq ≠ s.evq ∨ t.counters.evqDrop ≠ s.counters.evqDrop → a = .hostWrite ∨ a = .trigger) ∧
    (t.configured ≠ s.configured → a = .hostWrite ∨ a = .tick ∧ .setConfigured ∈ k) ∧
    (t.lastRssi ≠ s.lastRssi → a = .hostWrite ∨ a = .tick ∧ ∃ m, .takeFrame m ∈ k) ∧
    (t.rxq ≠ s.rxq ∨ t.counters.crcErr ≠ s.counters.crcErr ∨ t.counters.rxqDrop ≠ s.counters.rxqDrop →
      a = .hostWrite ∨ a = .tick ∧ .deliver ∈ k) ∧
    (t.lastActivityMs ≠ s.lastActivityMs →
      a = .hostWrite ∨ (a = .tick ∨ a = .trigger) ∧ sleepingIn s.phase = some .light) ∧
    (t.pwrState ≠ s.pwrState →
      a = .hostWrite ∨ (a = .tick ∨ a = .trigger) ∧ sleepingIn s.phase = some .light ∨
        a = .tick ∧ ∃ kind, .enterSleep kind ∈ k) ∧
    (t.radioMode ≠ s.radioMode → a = .hostWrite ∨ a = .tick ∧ s.phase ≠ .idle) ∧
    (t.rxPending ≠ s.rxPending →
      a = .hostWrite ∨ a = .tick ∧ s.phase ≠ .idle ∨ ∃ f raw, a = .rxDone f raw) ∧
    (t.sticky ≠ s.sticky → a = .hostWrite ∨ a = .trigger ∨ a = .tick ∧ s.phase ≠ .idle) ∧
    (t.radio ≠ s.radio →
      a = .hostWrite ∨ a = .tick ∧ s.phase ≠ .idle ∨ a = .txDone ∨ ∃ f raw, a = .rxDone f raw)
end

