-- ==== Sys2Proof/Laws/State.lean ====
section
/-! SUPPORT. For each named update of State, one lemma per field: the new value of a field it writes, and
that it leaves every other field alone. -/

namespace Sys2Proof.Machine

/-! ## respond -/

@[simp] theorem respond_par (st : Status) (pl : List Byte) (s : State) : (respond st pl s).par = s.par := rfl
@[simp] theorem respond_phase (st : Status) (pl : List Byte) (s : State) :
    (respond st pl s).phase = .idle := rfl
@[simp] theorem respond_sticky (st : Status) (pl : List Byte) (s : State) :
    (respond st pl s).sticky = s.sticky := rfl
@[simp] theorem respond_pkt (st : Status) (pl : List Byte) (s : State) : (respond st pl s).pkt = s.pkt := rfl
@[simp] theorem respond_lastRssi (st : Status) (pl : List Byte) (s : State) :
    (respond st pl s).lastRssi = s.lastRssi := rfl
@[simp] theorem respond_nowMs (st : Status) (pl : List Byte) (s : State) :
    (respond st pl s).nowMs = s.nowMs := rfl
@[simp] theorem respond_lastActivityMs (st : Status) (pl : List Byte) (s : State) :
    (respond st pl s).lastActivityMs = s.lastActivityMs := rfl
@[simp] theorem respond_lastAcceptMs (st : Status) (pl : List Byte) (s : State) :
    (respond st pl s).lastAcceptMs = s.lastAcceptMs := rfl
@[simp] theorem respond_anyAccepted (st : Status) (pl : List Byte) (s : State) :
    (respond st pl s).anyAccepted = s.anyAccepted := rfl
@[simp] theorem respond_extPowered (st : Status) (pl : List Byte) (s : State) :
    (respond st pl s).extPowered = s.extPowered := rfl
@[simp] theorem respond_battSampled (st : Status) (pl : List Byte) (s : State) :
    (respond st pl s).battSampled = s.battSampled := rfl
@[simp] theorem respond_graceDone (st : Status) (pl : List Byte) (s : State) :
    (respond st pl s).graceDone = s.graceDone := rfl
@[simp] theorem respond_pwrState (st : Status) (pl : List Byte) (s : State) :
    (respond st pl s).pwrState = s.pwrState := rfl
@[simp] theorem respond_radioMode (st : Status) (pl : List Byte) (s : State) :
    (respond st pl s).radioMode = s.radioMode := rfl
@[simp] theorem respond_configured (st : Status) (pl : List Byte) (s : State) :
    (respond st pl s).configured = s.configured := rfl
@[simp] theorem respond_rxPending (st : Status) (pl : List Byte) (s : State) :
    (respond st pl s).rxPending = s.rxPending := rfl
@[simp] theorem respond_cfg (st : Status) (pl : List Byte) (s : State) : (respond st pl s).cfg = s.cfg := rfl
@[simp] theorem respond_counters (st : Status) (pl : List Byte) (s : State) :
    (respond st pl s).counters = s.counters := rfl
@[simp] theorem respond_evq (st : Status) (pl : List Byte) (s : State) : (respond st pl s).evq = s.evq := rfl
@[simp] theorem respond_txq (st : Status) (pl : List Byte) (s : State) : (respond st pl s).txq = s.txq := rfl
@[simp] theorem respond_rxq (st : Status) (pl : List Byte) (s : State) : (respond st pl s).rxq = s.rxq := rfl
@[simp] theorem respond_cmdBuf (st : Status) (pl : List Byte) (s : State) :
    (respond st pl s).cmdBuf = s.cmdBuf := rfl
@[simp] theorem respond_resp (st : Status) (pl : List Byte) (s : State) :
    (respond st pl s).resp = some (responseBytes st pl) := rfl
@[simp] theorem respond_radio (st : Status) (pl : List Byte) (s : State) :
    (respond st pl s).radio = s.radio := rfl
@[simp] theorem respond_env (st : Status) (pl : List Byte) (s : State) : (respond st pl s).env = s.env := rfl

/-! ## suspend -/

@[simp] theorem suspend_par (c : Instr) (k : List Micro) (l : Locals) (w : Wait) (s : State) :
    (suspend c k l w s).par = s.par := rfl
@[simp] theorem suspend_phase (c : Instr) (k : List Micro) (l : Locals) (w : Wait) (s : State) :
    (suspend c k l w s).phase = .running c k l w := rfl
@[simp] theorem suspend_sticky (c : Instr) (k : List Micro) (l : Locals) (w : Wait) (s : State) :
    (suspend c k l w s).sticky = s.sticky := rfl
@[simp] theorem suspend_pkt (c : Instr) (k : List Micro) (l : Locals) (w : Wait) (s : State) :
    (suspend c k l w s).pkt = s.pkt := rfl
@[simp] theorem suspend_lastRssi (c : Instr) (k : List Micro) (l : Locals) (w : Wait) (s : State) :
    (suspend c k l w s).lastRssi = s.lastRssi := rfl
@[simp] theorem suspend_nowMs (c : Instr) (k : List Micro) (l : Locals) (w : Wait) (s : State) :
    (suspend c k l w s).nowMs = s.nowMs := rfl
@[simp] theorem suspend_lastActivityMs (c : Instr) (k : List Micro) (l : Locals) (w : Wait) (s : State) :
    (suspend c k l w s).lastActivityMs = s.lastActivityMs := rfl
@[simp] theorem suspend_lastAcceptMs (c : Instr) (k : List Micro) (l : Locals) (w : Wait) (s : State) :
    (suspend c k l w s).lastAcceptMs = s.lastAcceptMs := rfl
@[simp] theorem suspend_anyAccepted (c : Instr) (k : List Micro) (l : Locals) (w : Wait) (s : State) :
    (suspend c k l w s).anyAccepted = s.anyAccepted := rfl
@[simp] theorem suspend_extPowered (c : Instr) (k : List Micro) (l : Locals) (w : Wait) (s : State) :
    (suspend c k l w s).extPowered = s.extPowered := rfl
@[simp] theorem suspend_battSampled (c : Instr) (k : List Micro) (l : Locals) (w : Wait) (s : State) :
    (suspend c k l w s).battSampled = s.battSampled := rfl
@[simp] theorem suspend_graceDone (c : Instr) (k : List Micro) (l : Locals) (w : Wait) (s : State) :
    (suspend c k l w s).graceDone = s.graceDone := rfl
@[simp] theorem suspend_pwrState (c : Instr) (k : List Micro) (l : Locals) (w : Wait) (s : State) :
    (suspend c k l w s).pwrState = s.pwrState := rfl
@[simp] theorem suspend_radioMode (c : Instr) (k : List Micro) (l : Locals) (w : Wait) (s : State) :
    (suspend c k l w s).radioMode = s.radioMode := rfl
@[simp] theorem suspend_configured (c : Instr) (k : List Micro) (l : Locals) (w : Wait) (s : State) :
    (suspend c k l w s).configured = s.configured := rfl
@[simp] theorem suspend_rxPending (c : Instr) (k : List Micro) (l : Locals) (w : Wait) (s : State) :
    (suspend c k l w s).rxPending = s.rxPending := rfl
@[simp] theorem suspend_cfg (c : Instr) (k : List Micro) (l : Locals) (w : Wait) (s : State) :
    (suspend c k l w s).cfg = s.cfg := rfl
@[simp] theorem suspend_counters (c : Instr) (k : List Micro) (l : Locals) (w : Wait) (s : State) :
    (suspend c k l w s).counters = s.counters := rfl
@[simp] theorem suspend_evq (c : Instr) (k : List Micro) (l : Locals) (w : Wait) (s : State) :
    (suspend c k l w s).evq = s.evq := rfl
@[simp] theorem suspend_txq (c : Instr) (k : List Micro) (l : Locals) (w : Wait) (s : State) :
    (suspend c k l w s).txq = s.txq := rfl
@[simp] theorem suspend_rxq (c : Instr) (k : List Micro) (l : Locals) (w : Wait) (s : State) :
    (suspend c k l w s).rxq = s.rxq := rfl
@[simp] theorem suspend_cmdBuf (c : Instr) (k : List Micro) (l : Locals) (w : Wait) (s : State) :
    (suspend c k l w s).cmdBuf = s.cmdBuf := rfl
@[simp] theorem suspend_resp (c : Instr) (k : List Micro) (l : Locals) (w : Wait) (s : State) :
    (suspend c k l w s).resp = s.resp := rfl
@[simp] theorem suspend_radio (c : Instr) (k : List Micro) (l : Locals) (w : Wait) (s : State) :
    (suspend c k l w s).radio = s.radio := rfl
@[simp] theorem suspend_env (c : Instr) (k : List Micro) (l : Locals) (w : Wait) (s : State) :
    (suspend c k l w s).env = s.env := rfl

/-! ## countDraw -/

@[simp] theorem countDraw_par (s : State) : (countDraw s).par = s.par := rfl
@[simp] theorem countDraw_phase (s : State) : (countDraw s).phase = s.phase := rfl
@[simp] theorem countDraw_sticky (s : State) : (countDraw s).sticky = s.sticky := rfl
@[simp] theorem countDraw_pkt (s : State) : (countDraw s).pkt = s.pkt := rfl
@[simp] theorem countDraw_lastRssi (s : State) : (countDraw s).lastRssi = s.lastRssi := rfl
@[simp] theorem countDraw_nowMs (s : State) : (countDraw s).nowMs = s.nowMs := rfl
@[simp] theorem countDraw_lastActivityMs (s : State) : (countDraw s).lastActivityMs = s.lastActivityMs := rfl
@[simp] theorem countDraw_lastAcceptMs (s : State) : (countDraw s).lastAcceptMs = s.lastAcceptMs := rfl
@[simp] theorem countDraw_anyAccepted (s : State) : (countDraw s).anyAccepted = s.anyAccepted := rfl
@[simp] theorem countDraw_extPowered (s : State) : (countDraw s).extPowered = s.extPowered := rfl
@[simp] theorem countDraw_battSampled (s : State) : (countDraw s).battSampled = s.battSampled := rfl
@[simp] theorem countDraw_graceDone (s : State) : (countDraw s).graceDone = s.graceDone := rfl
@[simp] theorem countDraw_pwrState (s : State) : (countDraw s).pwrState = s.pwrState := rfl
@[simp] theorem countDraw_radioMode (s : State) : (countDraw s).radioMode = s.radioMode := rfl
@[simp] theorem countDraw_configured (s : State) : (countDraw s).configured = s.configured := rfl
@[simp] theorem countDraw_rxPending (s : State) : (countDraw s).rxPending = s.rxPending := rfl
@[simp] theorem countDraw_cfg (s : State) : (countDraw s).cfg = s.cfg := rfl
@[simp] theorem countDraw_counters (s : State) : (countDraw s).counters = s.counters := rfl
@[simp] theorem countDraw_evq (s : State) : (countDraw s).evq = s.evq := rfl
@[simp] theorem countDraw_txq (s : State) : (countDraw s).txq = s.txq := rfl
@[simp] theorem countDraw_rxq (s : State) : (countDraw s).rxq = s.rxq := rfl
@[simp] theorem countDraw_cmdBuf (s : State) : (countDraw s).cmdBuf = s.cmdBuf := rfl
@[simp] theorem countDraw_resp (s : State) : (countDraw s).resp = s.resp := rfl
@[simp] theorem countDraw_radio (s : State) : (countDraw s).radio = s.radio := rfl
@[simp] theorem countDraw_env (s : State) : (countDraw s).env = { s.env with draws := s.env.draws + 1 } := rfl

/-! ## notify -/

@[simp] theorem notify_par (s : State) : (notify s).par = s.par := rfl
@[simp] theorem notify_phase (s : State) : (notify s).phase = s.phase := rfl
@[simp] theorem notify_sticky (s : State) : (notify s).sticky = s.sticky := rfl
@[simp] theorem notify_pkt (s : State) : (notify s).pkt = s.pkt := rfl
@[simp] theorem notify_lastRssi (s : State) : (notify s).lastRssi = s.lastRssi := rfl
@[simp] theorem notify_nowMs (s : State) : (notify s).nowMs = s.nowMs := rfl
@[simp] theorem notify_lastActivityMs (s : State) : (notify s).lastActivityMs = s.nowMs := rfl
@[simp] theorem notify_lastAcceptMs (s : State) : (notify s).lastAcceptMs = s.lastAcceptMs := rfl
@[simp] theorem notify_anyAccepted (s : State) : (notify s).anyAccepted = s.anyAccepted := rfl
@[simp] theorem notify_extPowered (s : State) : (notify s).extPowered = s.extPowered := rfl
@[simp] theorem notify_battSampled (s : State) : (notify s).battSampled = s.battSampled := rfl
@[simp] theorem notify_graceDone (s : State) : (notify s).graceDone = s.graceDone := rfl
@[simp] theorem notify_pwrState (s : State) : (notify s).pwrState = s.pwrState := rfl
@[simp] theorem notify_radioMode (s : State) : (notify s).radioMode = s.radioMode := rfl
@[simp] theorem notify_configured (s : State) : (notify s).configured = s.configured := rfl
@[simp] theorem notify_rxPending (s : State) : (notify s).rxPending = s.rxPending := rfl
@[simp] theorem notify_cfg (s : State) : (notify s).cfg = s.cfg := rfl
@[simp] theorem notify_counters (s : State) : (notify s).counters = s.counters := rfl
@[simp] theorem notify_evq (s : State) : (notify s).evq = s.evq := rfl
@[simp] theorem notify_txq (s : State) : (notify s).txq = s.txq := rfl
@[simp] theorem notify_rxq (s : State) : (notify s).rxq = s.rxq := rfl
@[simp] theorem notify_cmdBuf (s : State) : (notify s).cmdBuf = s.cmdBuf := rfl
@[simp] theorem notify_resp (s : State) : (notify s).resp = s.resp := rfl
@[simp] theorem notify_radio (s : State) : (notify s).radio = s.radio := rfl
@[simp] theorem notify_env (s : State) : (notify s).env = s.env := rfl

/-! ## dropEvq -/

@[simp] theorem dropEvq_par (s : State) : (dropEvq s).par = s.par := rfl
@[simp] theorem dropEvq_phase (s : State) : (dropEvq s).phase = s.phase := rfl
@[simp] theorem dropEvq_sticky (s : State) :
    (dropEvq s).sticky = { s.sticky with overflowSeen := true } := rfl
@[simp] theorem dropEvq_pkt (s : State) : (dropEvq s).pkt = s.pkt := rfl
@[simp] theorem dropEvq_lastRssi (s : State) : (dropEvq s).lastRssi = s.lastRssi := rfl
@[simp] theorem dropEvq_nowMs (s : State) : (dropEvq s).nowMs = s.nowMs := rfl
@[simp] theorem dropEvq_lastActivityMs (s : State) : (dropEvq s).lastActivityMs = s.lastActivityMs := rfl
@[simp] theorem dropEvq_lastAcceptMs (s : State) : (dropEvq s).lastAcceptMs = s.lastAcceptMs := rfl
@[simp] theorem dropEvq_anyAccepted (s : State) : (dropEvq s).anyAccepted = s.anyAccepted := rfl
@[simp] theorem dropEvq_extPowered (s : State) : (dropEvq s).extPowered = s.extPowered := rfl
@[simp] theorem dropEvq_battSampled (s : State) : (dropEvq s).battSampled = s.battSampled := rfl
@[simp] theorem dropEvq_graceDone (s : State) : (dropEvq s).graceDone = s.graceDone := rfl
@[simp] theorem dropEvq_pwrState (s : State) : (dropEvq s).pwrState = s.pwrState := rfl
@[simp] theorem dropEvq_radioMode (s : State) : (dropEvq s).radioMode = s.radioMode := rfl
@[simp] theorem dropEvq_configured (s : State) : (dropEvq s).configured = s.configured := rfl
@[simp] theorem dropEvq_rxPending (s : State) : (dropEvq s).rxPending = s.rxPending := rfl
@[simp] theorem dropEvq_cfg (s : State) : (dropEvq s).cfg = s.cfg := rfl
@[simp] theorem dropEvq_counters (s : State) :
    (dropEvq s).counters = { s.counters with evqDrop := s.counters.evqDrop + 1 } := rfl
@[simp] theorem dropEvq_evq (s : State) : (dropEvq s).evq = s.evq := rfl
@[simp] theorem dropEvq_txq (s : State) : (dropEvq s).txq = s.txq := rfl
@[simp] theorem dropEvq_rxq (s : State) : (dropEvq s).rxq = s.rxq := rfl
@[simp] theorem dropEvq_cmdBuf (s : State) : (dropEvq s).cmdBuf = s.cmdBuf := rfl
@[simp] theorem dropEvq_resp (s : State) : (dropEvq s).resp = s.resp := rfl
@[simp] theorem dropEvq_radio (s : State) : (dropEvq s).radio = s.radio := rfl
@[simp] theorem dropEvq_env (s : State) : (dropEvq s).env = s.env := rfl

/-! ## dropTxq -/

@[simp] theorem dropTxq_par (s : State) : (dropTxq s).par = s.par := rfl
@[simp] theorem dropTxq_phase (s : State) : (dropTxq s).phase = s.phase := rfl
@[simp] theorem dropTxq_sticky (s : State) :
    (dropTxq s).sticky = { s.sticky with overflowSeen := true } := rfl
@[simp] theorem dropTxq_pkt (s : State) : (dropTxq s).pkt = s.pkt := rfl
@[simp] theorem dropTxq_lastRssi (s : State) : (dropTxq s).lastRssi = s.lastRssi := rfl
@[simp] theorem dropTxq_nowMs (s : State) : (dropTxq s).nowMs = s.nowMs := rfl
@[simp] theorem dropTxq_lastActivityMs (s : State) : (dropTxq s).lastActivityMs = s.lastActivityMs := rfl
@[simp] theorem dropTxq_lastAcceptMs (s : State) : (dropTxq s).lastAcceptMs = s.lastAcceptMs := rfl
@[simp] theorem dropTxq_anyAccepted (s : State) : (dropTxq s).anyAccepted = s.anyAccepted := rfl
@[simp] theorem dropTxq_extPowered (s : State) : (dropTxq s).extPowered = s.extPowered := rfl
@[simp] theorem dropTxq_battSampled (s : State) : (dropTxq s).battSampled = s.battSampled := rfl
@[simp] theorem dropTxq_graceDone (s : State) : (dropTxq s).graceDone = s.graceDone := rfl
@[simp] theorem dropTxq_pwrState (s : State) : (dropTxq s).pwrState = s.pwrState := rfl
@[simp] theorem dropTxq_radioMode (s : State) : (dropTxq s).radioMode = s.radioMode := rfl
@[simp] theorem dropTxq_configured (s : State) : (dropTxq s).configured = s.configured := rfl
@[simp] theorem dropTxq_rxPending (s : State) : (dropTxq s).rxPending = s.rxPending := rfl
@[simp] theorem dropTxq_cfg (s : State) : (dropTxq s).cfg = s.cfg := rfl
@[simp] theorem dropTxq_counters (s : State) :
    (dropTxq s).counters = { s.counters with txqDrop := s.counters.txqDrop + 1 } := rfl
@[simp] theorem dropTxq_evq (s : State) : (dropTxq s).evq = s.evq := rfl
@[simp] theorem dropTxq_txq (s : State) : (dropTxq s).txq = s.txq := rfl
@[simp] theorem dropTxq_rxq (s : State) : (dropTxq s).rxq = s.rxq := rfl
@[simp] theorem dropTxq_cmdBuf (s : State) : (dropTxq s).cmdBuf = s.cmdBuf := rfl
@[simp] theorem dropTxq_resp (s : State) : (dropTxq s).resp = s.resp := rfl
@[simp] theorem dropTxq_radio (s : State) : (dropTxq s).radio = s.radio := rfl
@[simp] theorem dropTxq_env (s : State) : (dropTxq s).env = s.env := rfl

/-! ## dropRxq -/

@[simp] theorem dropRxq_par (s : State) : (dropRxq s).par = s.par := rfl
@[simp] theorem dropRxq_phase (s : State) : (dropRxq s).phase = s.phase := rfl
@[simp] theorem dropRxq_sticky (s : State) :
    (dropRxq s).sticky = { s.sticky with overflowSeen := true } := rfl
@[simp] theorem dropRxq_pkt (s : State) : (dropRxq s).pkt = s.pkt := rfl
@[simp] theorem dropRxq_lastRssi (s : State) : (dropRxq s).lastRssi = s.lastRssi := rfl
@[simp] theorem dropRxq_nowMs (s : State) : (dropRxq s).nowMs = s.nowMs := rfl
@[simp] theorem dropRxq_lastActivityMs (s : State) : (dropRxq s).lastActivityMs = s.lastActivityMs := rfl
@[simp] theorem dropRxq_lastAcceptMs (s : State) : (dropRxq s).lastAcceptMs = s.lastAcceptMs := rfl
@[simp] theorem dropRxq_anyAccepted (s : State) : (dropRxq s).anyAccepted = s.anyAccepted := rfl
@[simp] theorem dropRxq_extPowered (s : State) : (dropRxq s).extPowered = s.extPowered := rfl
@[simp] theorem dropRxq_battSampled (s : State) : (dropRxq s).battSampled = s.battSampled := rfl
@[simp] theorem dropRxq_graceDone (s : State) : (dropRxq s).graceDone = s.graceDone := rfl
@[simp] theorem dropRxq_pwrState (s : State) : (dropRxq s).pwrState = s.pwrState := rfl
@[simp] theorem dropRxq_radioMode (s : State) : (dropRxq s).radioMode = s.radioMode := rfl
@[simp] theorem dropRxq_configured (s : State) : (dropRxq s).configured = s.configured := rfl
@[simp] theorem dropRxq_rxPending (s : State) : (dropRxq s).rxPending = s.rxPending := rfl
@[simp] theorem dropRxq_cfg (s : State) : (dropRxq s).cfg = s.cfg := rfl
@[simp] theorem dropRxq_counters (s : State) :
    (dropRxq s).counters = { s.counters with rxqDrop := s.counters.rxqDrop + 1 } := rfl
@[simp] theorem dropRxq_evq (s : State) : (dropRxq s).evq = s.evq := rfl
@[simp] theorem dropRxq_txq (s : State) : (dropRxq s).txq = s.txq := rfl
@[simp] theorem dropRxq_rxq (s : State) : (dropRxq s).rxq = s.rxq := rfl
@[simp] theorem dropRxq_cmdBuf (s : State) : (dropRxq s).cmdBuf = s.cmdBuf := rfl
@[simp] theorem dropRxq_resp (s : State) : (dropRxq s).resp = s.resp := rfl
@[simp] theorem dropRxq_radio (s : State) : (dropRxq s).radio = s.radio := rfl
@[simp] theorem dropRxq_env (s : State) : (dropRxq s).env = s.env := rfl

/-! ## recordTransportFault -/

@[simp] theorem recordTransportFault_par (s : State) : (recordTransportFault s).par = s.par := rfl
@[simp] theorem recordTransportFault_phase (s : State) : (recordTransportFault s).phase = s.phase := rfl
@[simp] theorem recordTransportFault_sticky (s : State) :
    (recordTransportFault s).sticky = { s.sticky with transportFault := true } := rfl
@[simp] theorem recordTransportFault_pkt (s : State) : (recordTransportFault s).pkt = s.pkt := rfl
@[simp] theorem recordTransportFault_lastRssi (s : State) :
    (recordTransportFault s).lastRssi = s.lastRssi := rfl
@[simp] theorem recordTransportFault_nowMs (s : State) : (recordTransportFault s).nowMs = s.nowMs := rfl
@[simp] theorem recordTransportFault_lastActivityMs (s : State) :
    (recordTransportFault s).lastActivityMs = s.lastActivityMs := rfl
@[simp] theorem recordTransportFault_lastAcceptMs (s : State) :
    (recordTransportFault s).lastAcceptMs = s.lastAcceptMs := rfl
@[simp] theorem recordTransportFault_anyAccepted (s : State) :
    (recordTransportFault s).anyAccepted = s.anyAccepted := rfl
@[simp] theorem recordTransportFault_extPowered (s : State) :
    (recordTransportFault s).extPowered = s.extPowered := rfl
@[simp] theorem recordTransportFault_battSampled (s : State) :
    (recordTransportFault s).battSampled = s.battSampled := rfl
@[simp] theorem recordTransportFault_graceDone (s : State) :
    (recordTransportFault s).graceDone = s.graceDone := rfl
@[simp] theorem recordTransportFault_pwrState (s : State) :
    (recordTransportFault s).pwrState = s.pwrState := rfl
@[simp] theorem recordTransportFault_radioMode (s : State) :
    (recordTransportFault s).radioMode = s.radioMode := rfl
@[simp] theorem recordTransportFault_configured (s : State) :
    (recordTransportFault s).configured = s.configured := rfl
@[simp] theorem recordTransportFault_rxPending (s : State) :
    (recordTransportFault s).rxPending = s.rxPending := rfl
@[simp] theorem recordTransportFault_cfg (s : State) : (recordTransportFault s).cfg = s.cfg := rfl
@[simp] theorem recordTransportFault_counters (s : State) :
    (recordTransportFault s).counters = s.counters := rfl
@[simp] theorem recordTransportFault_evq (s : State) : (recordTransportFault s).evq = s.evq := rfl
@[simp] theorem recordTransportFault_txq (s : State) : (recordTransportFault s).txq = s.txq := rfl
@[simp] theorem recordTransportFault_rxq (s : State) : (recordTransportFault s).rxq = s.rxq := rfl
@[simp] theorem recordTransportFault_cmdBuf (s : State) : (recordTransportFault s).cmdBuf = s.cmdBuf := rfl
@[simp] theorem recordTransportFault_resp (s : State) : (recordTransportFault s).resp = s.resp := rfl
@[simp] theorem recordTransportFault_radio (s : State) : (recordTransportFault s).radio = s.radio := rfl
@[simp] theorem recordTransportFault_env (s : State) : (recordTransportFault s).env = s.env := rfl

/-! ## recordTxTimeout -/

@[simp] theorem recordTxTimeout_par (s : State) : (recordTxTimeout s).par = s.par := rfl
@[simp] theorem recordTxTimeout_phase (s : State) : (recordTxTimeout s).phase = s.phase := rfl
@[simp] theorem recordTxTimeout_sticky (s : State) :
    (recordTxTimeout s).sticky = { s.sticky with txTimeoutSeen := true } := rfl
@[simp] theorem recordTxTimeout_pkt (s : State) : (recordTxTimeout s).pkt = s.pkt := rfl
@[simp] theorem recordTxTimeout_lastRssi (s : State) : (recordTxTimeout s).lastRssi = s.lastRssi := rfl
@[simp] theorem recordTxTimeout_nowMs (s : State) : (recordTxTimeout s).nowMs = s.nowMs := rfl
@[simp] theorem recordTxTimeout_lastActivityMs (s : State) :
    (recordTxTimeout s).lastActivityMs = s.lastActivityMs := rfl
@[simp] theorem recordTxTimeout_lastAcceptMs (s : State) :
    (recordTxTimeout s).lastAcceptMs = s.lastAcceptMs := rfl
@[simp] theorem recordTxTimeout_anyAccepted (s : State) :
    (recordTxTimeout s).anyAccepted = s.anyAccepted := rfl
@[simp] theorem recordTxTimeout_extPowered (s : State) : (recordTxTimeout s).extPowered = s.extPowered := rfl
@[simp] theorem recordTxTimeout_battSampled (s : State) :
    (recordTxTimeout s).battSampled = s.battSampled := rfl
@[simp] theorem recordTxTimeout_graceDone (s : State) : (recordTxTimeout s).graceDone = s.graceDone := rfl
@[simp] theorem recordTxTimeout_pwrState (s : State) : (recordTxTimeout s).pwrState = s.pwrState := rfl
@[simp] theorem recordTxTimeout_radioMode (s : State) : (recordTxTimeout s).radioMode = s.radioMode := rfl
@[simp] theorem recordTxTimeout_configured (s : State) : (recordTxTimeout s).configured = s.configured := rfl
@[simp] theorem recordTxTimeout_rxPending (s : State) : (recordTxTimeout s).rxPending = s.rxPending := rfl
@[simp] theorem recordTxTimeout_cfg (s : State) : (recordTxTimeout s).cfg = s.cfg := rfl
@[simp] theorem recordTxTimeout_counters (s : State) : (recordTxTimeout s).counters = s.counters := rfl
@[simp] theorem recordTxTimeout_evq (s : State) : (recordTxTimeout s).evq = s.evq := rfl
@[simp] theorem recordTxTimeout_txq (s : State) : (recordTxTimeout s).txq = s.txq := rfl
@[simp] theorem recordTxTimeout_rxq (s : State) : (recordTxTimeout s).rxq = s.rxq := rfl
@[simp] theorem recordTxTimeout_cmdBuf (s : State) : (recordTxTimeout s).cmdBuf = s.cmdBuf := rfl
@[simp] theorem recordTxTimeout_resp (s : State) : (recordTxTimeout s).resp = s.resp := rfl
@[simp] theorem recordTxTimeout_radio (s : State) : (recordTxTimeout s).radio = s.radio := rfl
@[simp] theorem recordTxTimeout_env (s : State) : (recordTxTimeout s).env = s.env := rfl

/-! ## recordOp -/

@[simp] theorem recordOp_par (op : RadioOp) (s : State) : (recordOp op s).par = s.par := rfl
@[simp] theorem recordOp_phase (op : RadioOp) (s : State) : (recordOp op s).phase = s.phase := rfl
@[simp] theorem recordOp_sticky (op : RadioOp) (s : State) : (recordOp op s).sticky = s.sticky := rfl
@[simp] theorem recordOp_pkt (op : RadioOp) (s : State) : (recordOp op s).pkt = s.pkt := rfl
@[simp] theorem recordOp_lastRssi (op : RadioOp) (s : State) : (recordOp op s).lastRssi = s.lastRssi := rfl
@[simp] theorem recordOp_nowMs (op : RadioOp) (s : State) : (recordOp op s).nowMs = s.nowMs := rfl
@[simp] theorem recordOp_lastActivityMs (op : RadioOp) (s : State) :
    (recordOp op s).lastActivityMs = s.lastActivityMs := rfl
@[simp] theorem recordOp_lastAcceptMs (op : RadioOp) (s : State) :
    (recordOp op s).lastAcceptMs = s.lastAcceptMs := rfl
@[simp] theorem recordOp_anyAccepted (op : RadioOp) (s : State) :
    (recordOp op s).anyAccepted = s.anyAccepted := rfl
@[simp] theorem recordOp_extPowered (op : RadioOp) (s : State) :
    (recordOp op s).extPowered = s.extPowered := rfl
@[simp] theorem recordOp_battSampled (op : RadioOp) (s : State) :
    (recordOp op s).battSampled = s.battSampled := rfl
@[simp] theorem recordOp_graceDone (op : RadioOp) (s : State) : (recordOp op s).graceDone = s.graceDone := rfl
@[simp] theorem recordOp_pwrState (op : RadioOp) (s : State) : (recordOp op s).pwrState = s.pwrState := rfl
@[simp] theorem recordOp_radioMode (op : RadioOp) (s : State) : (recordOp op s).radioMode = s.radioMode := rfl
@[simp] theorem recordOp_configured (op : RadioOp) (s : State) :
    (recordOp op s).configured = s.configured := rfl
@[simp] theorem recordOp_rxPending (op : RadioOp) (s : State) : (recordOp op s).rxPending = s.rxPending := rfl
@[simp] theorem recordOp_cfg (op : RadioOp) (s : State) : (recordOp op s).cfg = s.cfg := rfl
@[simp] theorem recordOp_counters (op : RadioOp) (s : State) : (recordOp op s).counters = s.counters := rfl
@[simp] theorem recordOp_evq (op : RadioOp) (s : State) : (recordOp op s).evq = s.evq := rfl
@[simp] theorem recordOp_txq (op : RadioOp) (s : State) : (recordOp op s).txq = s.txq := rfl
@[simp] theorem recordOp_rxq (op : RadioOp) (s : State) : (recordOp op s).rxq = s.rxq := rfl
@[simp] theorem recordOp_cmdBuf (op : RadioOp) (s : State) : (recordOp op s).cmdBuf = s.cmdBuf := rfl
@[simp] theorem recordOp_resp (op : RadioOp) (s : State) : (recordOp op s).resp = s.resp := rfl
@[simp] theorem recordOp_radio (op : RadioOp) (s : State) :
    (recordOp op s).radio = { s.radio with ops := s.radio.ops ++ [op] } := rfl
@[simp] theorem recordOp_env (op : RadioOp) (s : State) : (recordOp op s).env = s.env := rfl

/-! ## completeMode -/

@[simp] theorem completeMode_par (m : ChipMode) (s : State) : (completeMode m s).par = s.par := rfl
@[simp] theorem completeMode_phase (m : ChipMode) (s : State) : (completeMode m s).phase = s.phase := rfl
@[simp] theorem completeMode_sticky (m : ChipMode) (s : State) : (completeMode m s).sticky = s.sticky := rfl
@[simp] theorem completeMode_pkt (m : ChipMode) (s : State) : (completeMode m s).pkt = s.pkt := rfl
@[simp] theorem completeMode_lastRssi (m : ChipMode) (s : State) :
    (completeMode m s).lastRssi = s.lastRssi := rfl
@[simp] theorem completeMode_nowMs (m : ChipMode) (s : State) : (completeMode m s).nowMs = s.nowMs := rfl
@[simp] theorem completeMode_lastActivityMs (m : ChipMode) (s : State) :
    (completeMode m s).lastActivityMs = s.lastActivityMs := rfl
@[simp] theorem completeMode_lastAcceptMs (m : ChipMode) (s : State) :
    (completeMode m s).lastAcceptMs = s.lastAcceptMs := rfl
@[simp] theorem completeMode_anyAccepted (m : ChipMode) (s : State) :
    (completeMode m s).anyAccepted = s.anyAccepted := rfl
@[simp] theorem completeMode_extPowered (m : ChipMode) (s : State) :
    (completeMode m s).extPowered = s.extPowered := rfl
@[simp] theorem completeMode_battSampled (m : ChipMode) (s : State) :
    (completeMode m s).battSampled = s.battSampled := rfl
@[simp] theorem completeMode_graceDone (m : ChipMode) (s : State) :
    (completeMode m s).graceDone = s.graceDone := rfl
@[simp] theorem completeMode_pwrState (m : ChipMode) (s : State) :
    (completeMode m s).pwrState = s.pwrState := rfl
@[simp] theorem completeMode_radioMode (m : ChipMode) (s : State) :
    (completeMode m s).radioMode = modeAfter m := rfl
@[simp] theorem completeMode_configured (m : ChipMode) (s : State) :
    (completeMode m s).configured = s.configured := rfl
@[simp] theorem completeMode_rxPending (m : ChipMode) (s : State) :
    (completeMode m s).rxPending = if m = .rxCont then s.rxPending else false := rfl
@[simp] theorem completeMode_cfg (m : ChipMode) (s : State) : (completeMode m s).cfg = s.cfg := rfl
@[simp] theorem completeMode_counters (m : ChipMode) (s : State) :
    (completeMode m s).counters = s.counters := rfl
@[simp] theorem completeMode_evq (m : ChipMode) (s : State) : (completeMode m s).evq = s.evq := rfl
@[simp] theorem completeMode_txq (m : ChipMode) (s : State) : (completeMode m s).txq = s.txq := rfl
@[simp] theorem completeMode_rxq (m : ChipMode) (s : State) : (completeMode m s).rxq = s.rxq := rfl
@[simp] theorem completeMode_cmdBuf (m : ChipMode) (s : State) : (completeMode m s).cmdBuf = s.cmdBuf := rfl
@[simp] theorem completeMode_resp (m : ChipMode) (s : State) : (completeMode m s).resp = s.resp := rfl
@[simp] theorem completeMode_radio (m : ChipMode) (s : State) : (completeMode m s).radio = s.radio := rfl
@[simp] theorem completeMode_env (m : ChipMode) (s : State) : (completeMode m s).env = s.env := rfl

/-! ## fail -/

/-- `fail(st)` is `respond(st, [])` (00_scope.md rule R15). -/
@[simp] theorem fail_eq_respond (st : Status) (s : State) : fail st s = respond st [] s := rfl

/-! ## answer -/

/-- A response with status OK is the answer with code 0x00 and the payload. -/
theorem respond_ok (pl : List Byte) (s : State) : respond .ok pl s = answer 0x00 pl s := rfl

/-- A response with an error status is the answer with its code and no payload. -/
theorem respond_error {st : Status} (h : st ≠ .ok) (s : State) :
    respond st [] s = answer (statusByte st) [] s := by
  cases st <;> first | exact absurd rfl h | rfl

end Sys2Proof.Machine
end

