-- ==== Sys2Proof/Laws/Ops.lean ====
section
/-! SUPPORT. For each shared operation of Ops.lean, once, everything it can do. -/

namespace Sys2Proof.Machine

/-! ## Draws -/

/-- A draw of `radio.busy` changes nothing but the environment's draws. -/
theorem drawBusy_frame (s : State) :
    ∃ b e, drawBusy s = (b, { s with env := e }) ∧
      e.sched = s.env.sched ∧ e.hostBytes = s.env.hostBytes ∧ e.hostGot = s.env.hostGot := by
  unfold drawBusy
  split <;> exact ⟨_, _, rfl, rfl, rfl, rfl⟩

/-- A scripted draw of `radio.busy`. -/
theorem drawBusy_cons {s : State} {b : Bool} {rest : List Bool} (h : s.env.busy = b :: rest) :
    drawBusy s = (b, { s with env := { s.env with busy := rest } }) := by
  simp [drawBusy, h]

/-- A draw of `radio.present` changes nothing but the environment's draws. -/
theorem drawPresent_frame (s : State) :
    ∃ b e, drawPresent s = (b, { s with env := e }) ∧
      e.sched = s.env.sched ∧ e.hostBytes = s.env.hostBytes ∧ e.hostGot = s.env.hostGot := by
  unfold drawPresent
  split <;> exact ⟨_, _, rfl, rfl, rfl, rfl⟩

/-- A scripted draw of `radio.present`. -/
theorem drawPresent_cons {s : State} {b : Bool} {rest : List Bool} (h : s.env.present = b :: rest) :
    drawPresent s = (b, { s with env := { s.env with present := rest } }) := by
  simp [drawPresent, h]

/-- A scripted host byte. -/
theorem drawHostByte_cons {s : State} {b : Byte} {rest : List Byte} (h : s.env.hostBytes = b :: rest) :
    drawHostByte s = (b, { s with env := { s.env with hostBytes := rest } }) := by
  simp [drawHostByte, h]

/-- A scripted agent step. -/
theorem drawStep_cons {s : State} {a : AgentStep} {rest : List AgentStep} (h : s.env.sched = a :: rest) :
    drawStep s = (a, { s with env := { s.env with sched := rest } }) := by
  simp [drawStep, h]

/-- Choosing the next agent step, or the host's next byte, changes nothing but the environment. -/
theorem drawStep_frame (s : State) : ∃ a e, drawStep s = (a, { s with env := e }) := by
  unfold drawStep
  split <;> exact ⟨_, _, rfl⟩

theorem drawHostByte_frame (s : State) : ∃ b e, drawHostByte s = (b, { s with env := e }) := by
  unfold drawHostByte
  split <;> exact ⟨_, _, rfl⟩

/-! ## FIFOs -/

/-- A push with room appends at the tail. -/
theorem fifoPush_of_lt {α : Type} {cap : Nat} {q : List α} (x : α) (h : q.length < cap) :
    fifoPush cap q x = some (q ++ [x]) := by
  simp [fifoPush, h]

/-- A push without room is rejected. -/
theorem fifoPush_of_full {α : Type} {cap : Nat} {q : List α} (x : α) (h : ¬ q.length < cap) :
    fifoPush cap q x = none := by
  simp [fifoPush, h]

/-- A push onto the event FIFO appends, or drops the item with a record (44_fifo_pipeline.md rule R280). -/
theorem pushEvq_cases (x : Byte) (s : State) :
    (s.evq.length < s.par.evqCap ∧ pushEvq x s = (true, { s with evq := s.evq ++ [x] })) ∨
      (¬ s.evq.length < s.par.evqCap ∧ pushEvq x s = (false, dropEvq s)) := by
  by_cases h : s.evq.length < s.par.evqCap
  · exact .inl ⟨h, by simp [pushEvq, fifoPush_of_lt _ h]⟩
  · exact .inr ⟨h, by simp [pushEvq, fifoPush_of_full _ h]⟩

/-- A push onto the transmit FIFO appends, or drops the item with a record. -/
theorem pushTxq_cases (p : Packet) (s : State) :
    (s.txq.length < s.par.txqCap ∧ pushTxq p s = (true, { s with txq := s.txq ++ [p] })) ∨
      (¬ s.txq.length < s.par.txqCap ∧ pushTxq p s = (false, dropTxq s)) := by
  by_cases h : s.txq.length < s.par.txqCap
  · exact .inl ⟨h, by simp [pushTxq, fifoPush_of_lt _ h]⟩
  · exact .inr ⟨h, by simp [pushTxq, fifoPush_of_full _ h]⟩

/-- A push onto the receive FIFO appends, or drops the item with a record. -/
theorem pushRxq_cases (p : Packet) (s : State) :
    (s.rxq.length < s.par.rxqCap ∧ pushRxq p s = (true, { s with rxq := s.rxq ++ [p] })) ∨
      (¬ s.rxq.length < s.par.rxqCap ∧ pushRxq p s = (false, dropRxq s)) := by
  by_cases h : s.rxq.length < s.par.rxqCap
  · exact .inl ⟨h, by simp [pushRxq, fifoPush_of_lt _ h]⟩
  · exact .inr ⟨h, by simp [pushRxq, fifoPush_of_full _ h]⟩

/-! ## Transport fault -/

/-- A transport fault ends the command, or in PWR_TICK goes on with the sleep entry (60_exceptions.md rule
R343). -/
theorem transportFault_cases (c : Instr) (l : Locals) (s : State) :
    ((∃ b, c = .pwrTick b) ∧ transportFault c l s = .on l (recordTransportFault s)) ∨
      ((∀ b, c ≠ .pwrTick b) ∧
        transportFault c l s = .stop (respond .eTransport [] (recordTransportFault s))) := by
  cases c
  case pwrTick b => exact .inl ⟨⟨b, rfl⟩, rfl⟩
  all_goals exact .inr ⟨fun _ h => (nomatch h), rfl⟩

end Sys2Proof.Machine
end

