-- ==== Sys2Proof/Laws/RadioPort.lean ====
section
/-! SUPPORT. Everything the issue of a radio op can do (42_transceiver.md rules R191 to R195). -/

namespace Sys2Proof.Machine

/-! ## Performing an op -/

/-- `s` after `op` has been performed, with the radio and the environment then, before a `SetMode` has
completed. -/
def opPerformed (op : RadioOp) (r : Radio) (e : Env) (s : State) : State :=
  match op with
  | .clearIrq => { s with rxPending := false, radio := r, env := e }
  | _ => { s with radio := r, env := e }

/-- `s` after `op` has completed. -/
def opCompleted (op : RadioOp) (r : Radio) (e : Env) (s : State) : State :=
  match op with
  | .setMode m => completeMode m { s with radio := r, env := e }
  | _ => opPerformed op r e s

/-- An op is recorded in `radio.ops`; only `ClearIrq` writes the block's state, and only `Probe` draws. -/
theorem performOp_cases (op : RadioOp) (l : Locals) (s : State) :
    ∃ l' r e, performOp op l s = (l', opPerformed op r e s) ∧
      r.ops = s.radio.ops ++ [op] ∧ e.sched = s.env.sched ∧ e.hostBytes = s.env.hostBytes ∧
      e.hostGot = s.env.hostGot := by
  cases op with
  | probe =>
    obtain ⟨b, e, h, h1, h2, h3⟩ := drawPresent_frame (recordOp .probe s)
    simp only [performOp, h]
    exact ⟨_, _, e, rfl, rfl, h1, h2, h3⟩
  | configure cfg => exact ⟨_, _, s.env, rfl, rfl, rfl, rfl, rfl⟩
  | writePayload data => exact ⟨_, _, s.env, rfl, rfl, rfl, rfl, rfl⟩
  | setMode m => exact ⟨_, _, s.env, rfl, rfl, rfl, rfl, rfl⟩
  | readFrame => exact ⟨_, _, s.env, rfl, rfl, rfl, rfl, rfl⟩
  | clearIrq => exact ⟨_, _, s.env, rfl, rfl, rfl, rfl, rfl⟩

/-! ## Samples of `radio.busy` -/

/-- One sample: ready, busy below the ceiling, or busy at the ceiling; only the environment's draws
change. -/
theorem sampleBusy_cases (n : Nat) (s : State) :
    ∃ e, (e.sched = s.env.sched ∧ e.hostBytes = s.env.hostBytes ∧ e.hostGot = s.env.hostGot) ∧
      (sampleBusy n s = .ready { s with env := e } ∨
        (sampleBusy n s = .again { s with env := e } ∧ n ≠ s.par.busyRetryMax) ∨
        (sampleBusy n s = .ceiling { s with env := e } ∧ n = s.par.busyRetryMax)) := by
  obtain ⟨b, e, h, h1⟩ := drawBusy_frame s
  refine ⟨e, h1, ?_⟩
  cases b with
  | false => exact .inl (by simp [sampleBusy, h])
  | true =>
    by_cases hn : n = s.par.busyRetryMax
    · exact .inr (.inr ⟨by simp [sampleBusy, h, hn], hn⟩)
    · exact .inr (.inl ⟨by simp [sampleBusy, h, hn], hn⟩)

/-- A scripted ready sample. -/
theorem sampleBusy_ready {s : State} {rest : List Bool} (n : Nat) (h : s.env.busy = false :: rest) :
    sampleBusy n s = .ready { s with env := { s.env with busy := rest } } := by
  simp [sampleBusy, drawBusy_cons h]

/-- A scripted busy sample below the ceiling. -/
theorem sampleBusy_again {s : State} {rest : List Bool} {n : Nat} (h : s.env.busy = true :: rest)
    (hn : n ≠ s.par.busyRetryMax) :
    sampleBusy n s = .again { s with env := { s.env with busy := rest } } := by
  simp [sampleBusy, drawBusy_cons h, hn]

/-- A scripted busy sample at the ceiling. -/
theorem sampleBusy_ceiling {s : State} {rest : List Bool} {n : Nat} (h : s.env.busy = true :: rest)
    (hn : n = s.par.busyRetryMax) :
    sampleBusy n s = .ceiling { s with env := { s.env with busy := rest } } := by
  simp [sampleBusy, drawBusy_cons h, hn]

/-! ## Waits -/

/-- The read-back wait at sample `n`: the mode change completes, the wait goes on, or the ceiling faults. -/
theorem awaitReadback_cases (c : Instr) (k : List Micro) (l : Locals) (m : ChipMode) (n : Nat)
    (s : State) :
    ∃ e, (e.sched = s.env.sched ∧ e.hostBytes = s.env.hostBytes ∧ e.hostGot = s.env.hostGot) ∧
      (awaitReadback c k l m n s = .on l (completeMode m { s with env := e }) ∨
        (awaitReadback c k l m n s =
            .stop (suspend c k l (.readback m (BitVec.ofNat 8 n)) { s with env := e }) ∧
          n ≠ s.par.busyRetryMax) ∨
        (awaitReadback c k l m n s = transportFault c l { s with env := e } ∧
          n = s.par.busyRetryMax)) := by
  obtain ⟨e, h1, h | ⟨h, hn⟩ | ⟨h, hn⟩⟩ := sampleBusy_cases n s
  · exact ⟨e, h1, .inl (by simp [awaitReadback, h])⟩
  · exact ⟨e, h1, .inr (.inl ⟨by simp [awaitReadback, h], hn⟩)⟩
  · exact ⟨e, h1, .inr (.inr ⟨by simp [awaitReadback, h], hn⟩)⟩

/-- What an op, once it may be performed, comes to in variant B: it completes, it suspends in the read-back,
or the read-back faults at its first sample. -/
theorem performReady_cases (c : Instr) (k : List Micro) (l : Locals) (op : RadioOp) (s : State) :
    ∃ l' r e, (e.sched = s.env.sched ∧ e.hostBytes = s.env.hostBytes ∧ e.hostGot = s.env.hostGot) ∧
      r.ops = s.radio.ops ++ [op] ∧
      (performReady c k l op s = .on l' (opCompleted op r e s) ∨
        (∃ m, op = .setMode m ∧ 1 ≠ s.par.busyRetryMax ∧
          performReady c k l op s =
            .stop (suspend c k l (.readback m 1) { s with radio := r, env := e })) ∨
        (∃ m, op = .setMode m ∧ 1 = s.par.busyRetryMax ∧
          performReady c k l op s = transportFault c l { s with radio := r, env := e })) := by
  by_cases hm : ∃ m, op = .setMode m
  · obtain ⟨m, rfl⟩ := hm
    obtain ⟨e, he, h | ⟨h, hn⟩ | ⟨h, hn⟩⟩ := awaitReadback_cases c k l m 1 (recordOp (.setMode m) s)
    · exact ⟨l, _, e, he, rfl, .inl h⟩
    · exact ⟨l, _, e, he, rfl, .inr (.inl ⟨m, rfl, hn, h⟩)⟩
    · exact ⟨l, _, e, he, rfl, .inr (.inr ⟨m, rfl, hn, h⟩)⟩
  · obtain ⟨l', r, e, h, hr, he⟩ := performOp_cases op l s
    refine ⟨l', r, e, he, hr, .inl ?_⟩
    cases op with
    | setMode m => exact absurd ⟨m, rfl⟩ hm
    | _ => simp only [performReady, h, opCompleted]

/-- The ready wait finds the radio busy below the ceiling. -/
theorem awaitReady_again (c : Instr) (k : List Micro) (l : Locals) (op : RadioOp) {n : Nat} {s : State}
    {rest : List Bool} (h : s.env.busy = true :: rest) (hn : n ≠ s.par.busyRetryMax) :
    awaitReady c k l op n s =
      .stop (suspend c k l (.ready op (BitVec.ofNat 8 n)) { s with env := { s.env with busy := rest } }) := by
  simp [awaitReady, sampleBusy_again h hn]

/-- The ready wait meets the ceiling. -/
theorem awaitReady_ceiling (c : Instr) (k : List Micro) (l : Locals) (op : RadioOp) {n : Nat} {s : State}
    {rest : List Bool} (h : s.env.busy = true :: rest) (hn : n = s.par.busyRetryMax) :
    awaitReady c k l op n s = transportFault c l { s with env := { s.env with busy := rest } } := by
  simp [awaitReady, sampleBusy_ceiling h hn]

/-- The ready wait finds the radio ready. -/
theorem awaitReady_ready (c : Instr) (k : List Micro) (l : Locals) (op : RadioOp) {n : Nat} {s : State}
    {rest : List Bool} (h : s.env.busy = false :: rest) :
    awaitReady c k l op n s = performReady c k l op { s with env := { s.env with busy := rest } } := by
  simp [awaitReady, sampleBusy_ready n h]

/-- The ready wait before `op` at sample `n`: the op completes; the wait, or the read-back after it,
suspends; or a ceiling is met. -/
theorem awaitReady_cases (c : Instr) (k : List Micro) (l : Locals) (op : RadioOp) (n : Nat) (s : State) :
    ∃ l' r e, (e.sched = s.env.sched ∧ e.hostBytes = s.env.hostBytes ∧ e.hostGot = s.env.hostGot) ∧
      (awaitReady c k l op n s = .on l' (opCompleted op r e s) ∨
        (n ≠ s.par.busyRetryMax ∧
          awaitReady c k l op n s =
            .stop (suspend c k l (.ready op (BitVec.ofNat 8 n)) { s with env := e })) ∨
        (∃ m, op = .setMode m ∧ 1 ≠ s.par.busyRetryMax ∧
          awaitReady c k l op n s =
            .stop (suspend c k l (.readback m 1) { s with radio := r, env := e })) ∨
        awaitReady c k l op n s = transportFault c l { s with radio := r, env := e }) := by
  obtain ⟨e, he, h | ⟨h, hn⟩ | ⟨h, hn⟩⟩ := sampleBusy_cases n s
  · obtain ⟨l', r, e', he', hr, h2 | ⟨m, hm, hmax, h2⟩ | ⟨m, hm, hmax, h2⟩⟩ :=
      performReady_cases c k l op { s with env := e }
    · refine ⟨l', r, e', ⟨he'.1.trans he.1, he'.2.1.trans he.2.1, he'.2.2.trans he.2.2⟩, .inl ?_⟩
      simp only [awaitReady, h, h2]
      cases op <;> rfl
    · refine ⟨l', r, e', ⟨he'.1.trans he.1, he'.2.1.trans he.2.1, he'.2.2.trans he.2.2⟩,
        .inr (.inr (.inl ⟨m, hm, hmax, ?_⟩))⟩
      simp only [awaitReady, h, h2]
    · refine ⟨l', r, e', ⟨he'.1.trans he.1, he'.2.1.trans he.2.1, he'.2.2.trans he.2.2⟩,
        .inr (.inr (.inr ?_))⟩
      simp only [awaitReady, h, h2]
  · exact ⟨l, s.radio, e, he, .inr (.inl ⟨hn, by simp [awaitReady, h]⟩)⟩
  · exact ⟨l, s.radio, e, he, .inr (.inr (.inr (by simp [awaitReady, h])))⟩

/-- Variant A: an op completes within the step that issues it (42_transceiver.md rule R193). -/
theorem performAtOnce_cases (op : RadioOp) (l : Locals) (s : State) :
    ∃ l' r e, (e.sched = s.env.sched ∧ e.hostBytes = s.env.hostBytes ∧ e.hostGot = s.env.hostGot) ∧
      r.ops = s.radio.ops ++ [op] ∧ performAtOnce op l s = .on l' (opCompleted op r e s) := by
  obtain ⟨l', r, e, h, hr, he⟩ := performOp_cases op l s
  refine ⟨l', r, e, he, hr, ?_⟩
  cases op <;> simp only [performAtOnce, h] <;> rfl

/-- `radio(op)` (42_transceiver.md rule R194): in either variant the op completes; only in variant B the
command suspends in a wait or meets the ceiling. -/
theorem radioIssue_cases (c : Instr) (k : List Micro) (l : Locals) (op : RadioOp) (s : State) :
    ∃ l' r e, (e.sched = s.env.sched ∧ e.hostBytes = s.env.hostBytes ∧ e.hostGot = s.env.hostGot) ∧
      (radioIssue c k l op s = .on l' (opCompleted op r e s) ∨
        (s.par.variant = .B ∧ 1 ≠ s.par.busyRetryMax ∧
          radioIssue c k l op s = .stop (suspend c k l (.ready op 1) { s with env := e })) ∨
        (s.par.variant = .B ∧ 1 ≠ s.par.busyRetryMax ∧ ∃ m, op = .setMode m ∧
          radioIssue c k l op s =
            .stop (suspend c k l (.readback m 1) { s with radio := r, env := e })) ∨
        (s.par.variant = .B ∧
          radioIssue c k l op s = transportFault c l { s with radio := r, env := e })) := by
  cases hv : s.par.variant with
  | A =>
    obtain ⟨l', r, e, he, -, h⟩ := performAtOnce_cases op l s
    exact ⟨l', r, e, he, .inl (by simp [radioIssue, hv, h])⟩
  | B =>
    obtain ⟨l', r, e, he, h | ⟨hn, h⟩ | ⟨m, hm, hn, h⟩ | h⟩ := awaitReady_cases c k l op 1 s
    · exact ⟨l', r, e, he, .inl (by simp [radioIssue, hv, h])⟩
    · exact ⟨l', r, e, he, .inr (.inl ⟨rfl, hn, by simp [radioIssue, hv, h]⟩)⟩
    · exact ⟨l', r, e, he, .inr (.inr (.inl ⟨rfl, hn, m, hm, by simp [radioIssue, hv, h]⟩))⟩
    · exact ⟨l', r, e, he, .inr (.inr (.inr ⟨rfl, by simp [radioIssue, hv, h]⟩))⟩

/-! ## What an issue comes to -/

/-- `P` where the command goes on, `Q` where it has suspended or ended. -/
def progressTo (P Q : State → Prop) : Progress → Prop
  | .on _ s => P s
  | .stop s => Q s

/-- A transport fault: the sleep entry goes on, any other command ends. -/
theorem transportFault_to {P Q : State → Prop} {c : Instr} {l : Locals} {s : State}
    (hon : (∃ b, c = .pwrTick b) → P (recordTransportFault s))
    (hstop : (∀ b, c ≠ .pwrTick b) → Q (respond .eTransport [] (recordTransportFault s))) :
    progressTo P Q (transportFault c l s) := by
  rcases transportFault_cases c l s with ⟨hb, h⟩ | ⟨hb, h⟩ <;> rw [h]
  · exact hon hb
  · exact hstop hb

/-- `radio(op)`, outcome by outcome. -/
theorem radioIssue_to {P Q : State → Prop} {c : Instr} {k : List Micro} {l : Locals} {op : RadioOp}
    {s : State} (hop : ∀ r e, P (opCompleted op r e s))
    (hwait : ∀ r e w, s.par.variant = .B → 1 ≠ s.par.busyRetryMax →
      (w = .ready op 1 ∨ ∃ m, op = .setMode m ∧ w = .readback m 1) →
      Q (suspend c k l w { s with radio := r, env := e }))
    (hon : ∀ r e, s.par.variant = .B → (∃ b, c = .pwrTick b) →
      P (recordTransportFault { s with radio := r, env := e }))
    (hstop : ∀ r e, s.par.variant = .B → (∀ b, c ≠ .pwrTick b) →
      Q (respond .eTransport [] (recordTransportFault { s with radio := r, env := e }))) :
    progressTo P Q (radioIssue c k l op s) := by
  obtain ⟨l', r, e, -, h | ⟨hv, hn, h⟩ | ⟨hv, hn, m, hm, h⟩ | ⟨hv, h⟩⟩ := radioIssue_cases c k l op s <;>
    rw [h]
  · exact hop r e
  · exact hwait s.radio e _ hv hn (.inl rfl)
  · exact hwait r e _ hv hn (.inr ⟨m, hm, rfl⟩)
  · exact transportFault_to (hon r e hv) (hstop r e hv)

/-- The evaluation of a ready wait, outcome by outcome. -/
theorem awaitReady_to {P Q : State → Prop} {c : Instr} {k : List Micro} {l : Locals} {op : RadioOp}
    {n : Nat} {s : State} (hop : ∀ r e, P (opCompleted op r e s))
    (hwait : ∀ r e w,
      (w = .ready op (BitVec.ofNat 8 n) ∧ n ≠ s.par.busyRetryMax ∨
        ∃ m, op = .setMode m ∧ w = .readback m 1 ∧ 1 ≠ s.par.busyRetryMax) →
      Q (suspend c k l w { s with radio := r, env := e }))
    (hon : ∀ r e, (∃ b, c = .pwrTick b) → P (recordTransportFault { s with radio := r, env := e }))
    (hstop : ∀ r e, (∀ b, c ≠ .pwrTick b) →
      Q (respond .eTransport [] (recordTransportFault { s with radio := r, env := e }))) :
    progressTo P Q (awaitReady c k l op n s) := by
  obtain ⟨l', r, e, -, h | ⟨hn, h⟩ | ⟨m, hm, hn, h⟩ | h⟩ := awaitReady_cases c k l op n s <;> rw [h]
  · exact hop r e
  · exact hwait s.radio e _ (.inl ⟨rfl, hn⟩)
  · exact hwait r e _ (.inr ⟨m, hm, rfl, hn⟩)
  · exact transportFault_to (hon r e) (hstop r e)

/-- The evaluation of a read-back wait, outcome by outcome. -/
theorem awaitReadback_to {P Q : State → Prop} {c : Instr} {k : List Micro} {l : Locals} {m : ChipMode}
    {n : Nat} {s : State} (hop : ∀ e, P (completeMode m { s with env := e }))
    (hwait : ∀ e, n ≠ s.par.busyRetryMax →
      Q (suspend c k l (.readback m (BitVec.ofNat 8 n)) { s with env := e }))
    (hon : ∀ e, (∃ b, c = .pwrTick b) → P (recordTransportFault { s with env := e }))
    (hstop : ∀ e, (∀ b, c ≠ .pwrTick b) →
      Q (respond .eTransport [] (recordTransportFault { s with env := e }))) :
    progressTo P Q (awaitReadback c k l m n s) := by
  obtain ⟨e, -, h | ⟨h, hn⟩ | ⟨h, -⟩⟩ := awaitReadback_cases c k l m n s <;> rw [h]
  · exact hop e
  · exact hwait e hn
  · exact transportFault_to (hon e) (hstop e)

end Sys2Proof.Machine
end

