-- ==== Sys2Proof/Laws/Sequencer.lean ====
section
/-! SUPPORT. Running the lines of a command (10_state.md rule R32): the induction, once, and what a run can
and cannot change. -/

namespace Sys2Proof.Machine

/-! ## One line -/

/-- `to_standby()` (42_transceiver.md rule R196). -/
theorem stepMicro_toStandby (c : Instr) (k : List Micro) (l : Locals) (s : State) :
    stepMicro c k .toStandby l s =
      if s.radioMode = .standby then .on l s else radioIssue c k l (.setMode .standby) s := rfl

/-- The radio op a line issues in state `s`, if it issues one. -/
def lineOp (m : Micro) (l : Locals) (s : State) : Option RadioOp :=
  match m with
  | .radio op => some op
  | .toStandby => if s.radioMode = .standby then none else some (.setMode .standby)
  | .configure => some (.configure (linkSettings s.par s.cfg))
  | .writePayload => some (.writePayload l.data)
  | _ => none

/-- A line that issues a radio op does nothing else. -/
theorem stepMicro_of_lineOp {c : Instr} {k : List Micro} {m : Micro} {l : Locals} {s : State}
    {op : RadioOp} (h : lineOp m l s = some op) : stepMicro c k m l s = radioIssue c k l op s := by
  cases m with
  | toStandby =>
    simp only [lineOp] at h
    split at h
    · cases h
    · rename_i hs
      cases h
      rw [stepMicro_toStandby, if_neg hs]
  | radio _ => cases h; rfl
  | configure => cases h; rfl
  | writePayload => cases h; rfl
  | _ => cases h

/-- Everything a line can do: issue its radio op, go on with nothing changed, or what its kind says. -/
theorem stepMicro_cases (c : Instr) (k : List Micro) (m : Micro) (l : Locals) (s : State) :
    (∃ op, lineOp m l s = some op ∧ stepMicro c k m l s = radioIssue c k l op s) ∨
      stepMicro c k m l s = .on l s ∨
      (m = .failAbsent ∧ stepMicro c k m l s = .stop (respond .eInit [] s)) ∨
      (m = .setConfigured ∧ stepMicro c k m l s = .on l { s with configured := true }) ∨
      (m = .txWait ∧ stepMicro c k m l s = .stop (suspend c k l (.tx s.nowMs) s)) ∨
      (m = .failTimeout ∧ stepMicro c k m l s = .stop (respond .eTimeout [] s)) ∨
      (∃ n l', m = .takeFrame n ∧
        stepMicro c k m l s = .on l' { s with lastRssi := rssiDbm s.par l.raw }) ∨
      (∃ pl, (m = .respondFrame ∨ m = .respondOk) ∧ stepMicro c k m l s = .stop (respond .ok pl s)) ∨
      (m = .deliver ∧ stepMicro c k m l s = .stop (deliverFrame l s)) ∨
      ∃ kind, m = .enterSleep kind ∧
        stepMicro c k m l s =
          .stop (suspend c k l (.sleep kind s.nowMs) { s with pwrState := sleepState kind }) := by
  cases m with
  | radio op => exact .inl ⟨op, rfl, rfl⟩
  | configure => exact .inl ⟨_, rfl, rfl⟩
  | writePayload => exact .inl ⟨_, rfl, rfl⟩
  | toStandby =>
    by_cases h : s.radioMode = .standby
    · exact .inr (.inl ((stepMicro_toStandby c k l s).trans (if_pos h)))
    · exact .inl ⟨_, if_neg h, (stepMicro_toStandby c k l s).trans (if_neg h)⟩
  | failAbsent =>
    cases h : l.present with
    | true => exact .inr (.inl (by simp only [stepMicro, h, if_true]))
    | false => exact .inr (.inr (.inl ⟨rfl, by simp only [stepMicro, h]; rfl⟩))
  | setConfigured => exact .inr (.inr (.inr (.inl ⟨rfl, rfl⟩)))
  | txWait => exact .inr (.inr (.inr (.inr (.inl ⟨rfl, rfl⟩))))
  | failTimeout => exact .inr (.inr (.inr (.inr (.inr (.inl ⟨rfl, rfl⟩)))))
  | takeFrame n => exact .inr (.inr (.inr (.inr (.inr (.inr (.inl ⟨n, _, rfl, rfl⟩))))))
  | respondFrame => exact .inr (.inr (.inr (.inr (.inr (.inr (.inr (.inl ⟨_, .inl rfl, rfl⟩)))))))
  | respondOk => exact .inr (.inr (.inr (.inr (.inr (.inr (.inr (.inl ⟨_, .inr rfl, rfl⟩)))))))
  | deliver => exact .inr (.inr (.inr (.inr (.inr (.inr (.inr (.inr (.inl ⟨rfl, rfl⟩))))))))
  | enterSleep kind => exact .inr (.inr (.inr (.inr (.inr (.inr (.inr (.inr (.inr ⟨kind, rfl, rfl⟩))))))))

/-! ## Running -/

/-- The induction over the lines of a command: if every line that goes on keeps `P`, every line that stops
gives `Q`, and running out of lines gives `Q`, then a run from `P` ends in `Q`. -/
theorem runLines_induction {c : Instr} {P : List Micro → Locals → State → Prop} {Q : State → Prop}
    (hon : ∀ k m l s l' s', P (m :: k) l s → stepMicro c k m l s = .on l' s' → P k l' s')
    (hstop : ∀ k m l s s', P (m :: k) l s → stepMicro c k m l s = .stop s' → Q s')
    (hend : ∀ l s, P [] l s → Q { s with phase := .idle })
    (k : List Micro) (l : Locals) (s : State) (h : P k l s) : Q (runLines c k l s) := by
  induction k generalizing l s with
  | nil => exact hend l s h
  | cons m k ih =>
    simp only [runLines]
    cases hm : stepMicro c k m l s with
    | on l' s' => exact ih l' s' (hon k m l s l' s' h hm)
    | stop s' => exact hstop k m l s s' h hm

/-- The same where a wait has ended. -/
theorem continueWith_induction {c : Instr} {P : List Micro → Locals → State → Prop} {Q : State → Prop}
    (hon : ∀ k m l s l' s', P (m :: k) l s → stepMicro c k m l s = .on l' s' → P k l' s')
    (hstop : ∀ k m l s s', P (m :: k) l s → stepMicro c k m l s = .stop s' → Q s')
    (hend : ∀ l s, P [] l s → Q { s with phase := .idle })
    (k : List Micro) (p : Progress) (h1 : ∀ l s, p = .on l s → P k l s)
    (h2 : ∀ s, p = .stop s → Q s) : Q (continueWith c k p) := by
  cases p with
  | on l s => exact runLines_induction hon hstop hend k l s (h1 l s rfl)
  | stop s => exact h2 s rfl

/-- A run from `P` ends in `Q`, if each line of `k` goes on to `P` or stops in `Q`; a line is run with the
lines that follow it in `k`. -/
theorem runLines_to {c : Instr} {P Q : State → Prop} {k : List Micro}
    (hline : ∀ m k' l u, (m :: k') <:+ k → P u → progressTo P Q (stepMicro c k' m l u))
    (hend : ∀ u, P u → Q { u with phase := .idle }) (l : Locals) (s : State) (h : P s) :
    Q (runLines c k l s) := by
  refine runLines_induction (P := fun k' _ u => k' <:+ k ∧ P u) (Q := Q) ?_ ?_ ?_ k l s
    ⟨List.suffix_rfl, h⟩
  · rintro k' m l u l' u' ⟨hk, hu⟩ hm
    have := hline m k' l u hk hu
    rw [hm] at this
    exact ⟨(List.suffix_cons m k').trans hk, this⟩
  · rintro k' m l u u' ⟨hk, hu⟩ hm
    have := hline m k' l u hk hu
    rwa [hm] at this
  · rintro l u ⟨-, hu⟩
    exact hend u hu

/-- The same where a wait has ended with a progress. -/
theorem continueWith_to {c : Instr} {P Q : State → Prop} {k : List Micro}
    (hline : ∀ m k' l u, (m :: k') <:+ k → P u → progressTo P Q (stepMicro c k' m l u))
    (hend : ∀ u, P u → Q { u with phase := .idle }) (p : Progress) (h : progressTo P Q p) :
    Q (continueWith c k p) := by
  cases p with
  | on l s => exact runLines_to hline hend l s h
  | stop s => exact h

/-! ## What a run leaves alone -/

/-- The elements of the state that no line of a command writes, the others erased: the lines write only the
phase, the sticky bits, `last_rssi`, the power state, the radio mode, `configured`, `rx_pending`, the
CRC_ERR and RXQ_DROP counters, the receive FIFO, the response, the radio and the draws. -/
def outsideRun (s : State) : State :=
  { s with
    phase := .idle
    sticky := ⟨false, false, false, false⟩
    lastRssi := 0
    pwrState := .active
    radioMode := .sleep
    configured := false
    rxPending := false
    counters := { s.counters with crcErr := 0, rxqDrop := 0 }
    rxq := []
    resp := none
    radio := Radio.initial
    env := { s.env with busy := [], present := [], draws := 0 } }

theorem outsideRun_env {s : State} {e : Env}
    (h : e.sched = s.env.sched ∧ e.hostBytes = s.env.hostBytes ∧ e.hostGot = s.env.hostGot) (r : Radio) :
    outsideRun { s with radio := r, env := e } = outsideRun s := by
  simp [outsideRun, h.1, h.2.1, h.2.2]

theorem outsideRun_opCompleted {s : State} {e : Env}
    (h : e.sched = s.env.sched ∧ e.hostBytes = s.env.hostBytes ∧ e.hostGot = s.env.hostGot)
    (op : RadioOp) (r : Radio) : outsideRun (opCompleted op r e s) = outsideRun s := by
  cases op <;> simp [outsideRun, opCompleted, opPerformed, completeMode, h.1, h.2.1, h.2.2]

/-- What agreement outside a run says, element by element. -/
theorem outsideRun_eq {s t : State} (h : outsideRun t = outsideRun s) :
    t.par = s.par ∧ t.pkt = s.pkt ∧ t.nowMs = s.nowMs ∧ t.lastActivityMs = s.lastActivityMs ∧
      t.lastAcceptMs = s.lastAcceptMs ∧ t.anyAccepted = s.anyAccepted ∧ t.extPowered = s.extPowered ∧
      t.battSampled = s.battSampled ∧ t.graceDone = s.graceDone ∧ t.cfg = s.cfg ∧
      t.counters.evqDrop = s.counters.evqDrop ∧ t.counters.txqDrop = s.counters.txqDrop ∧
      t.evq = s.evq ∧ t.txq = s.txq ∧ t.cmdBuf = s.cmdBuf ∧ t.env.sched = s.env.sched ∧
      t.env.hostBytes = s.env.hostBytes ∧ t.env.hostGot = s.env.hostGot := by
  simp only [outsideRun, State.mk.injEq, Counters.mk.injEq, Env.mk.injEq] at h
  obtain ⟨h1, -, -, h2, -, h3, h4, h5, h6, h7, h8, h9, -, -, -, -, h10, ⟨-, h11, h12, -⟩, h13, h14, -, h15, -,
    -, h16, h17, h18, -⟩ := h
  exact ⟨h1, h2, h3, h4, h5, h6, h7, h8, h9, h10, h11, h12, h13, h14, h15, h16, h17, h18⟩

/-- A radio op leaves the elements outside a run alone. -/
theorem outsideRun_radioIssue (c : Instr) (k : List Micro) (l : Locals) (op : RadioOp) (s : State) :
    progressTo (fun u => outsideRun u = outsideRun s) (fun u => outsideRun u = outsideRun s)
      (radioIssue c k l op s) := by
  obtain ⟨l', r, e, he, h | ⟨-, -, h⟩ | ⟨-, -, m, -, h⟩ | ⟨-, h⟩⟩ := radioIssue_cases c k l op s <;> rw [h]
  · exact outsideRun_opCompleted he op r
  · exact outsideRun_env he s.radio
  · exact outsideRun_env he r
  · exact transportFault_to (fun _ => outsideRun_env he r) (fun _ => outsideRun_env he r)

/-- PIPE_RECV's last line (44_fifo_pipeline.md rules R297, R298): an integrity failure, the packet queued,
or the packet dropped. -/
theorem deliverFrame_cases (l : Locals) (s : State) :
    deliverFrame l s = integrityFail s ∨
      (s.rxq.length < s.par.rxqCap ∧
        deliverFrame l s = respond .ok [] { s with rxq := s.rxq ++ [unframe l.frame] }) ∨
      deliverFrame l s = respond .eFull [] (dropRxq s) := by
  unfold deliverFrame
  split
  · exact .inl rfl
  · dsimp only
    split
    · rcases pushRxq_cases (unframe l.frame) s with ⟨hl, h⟩ | ⟨-, h⟩
      · exact .inr (.inl ⟨hl, by simp only [h]⟩)
      · exact .inr (.inr (by simp only [h]; rfl))
    · exact .inl rfl

theorem outsideRun_deliverFrame (l : Locals) (s : State) :
    outsideRun (deliverFrame l s) = outsideRun s := by
  rcases deliverFrame_cases l s with h | ⟨-, h⟩ | h <;> rw [h] <;> rfl

/-- One line leaves the elements outside a run alone. -/
theorem outsideRun_stepMicro (c : Instr) (k : List Micro) (m : Micro) (l : Locals) (s : State) :
    progressTo (fun u => outsideRun u = outsideRun s) (fun u => outsideRun u = outsideRun s)
      (stepMicro c k m l s) := by
  rcases stepMicro_cases c k m l s with ⟨op, -, h⟩ | h | ⟨-, h⟩ | ⟨-, h⟩ | ⟨-, h⟩ | ⟨-, h⟩ | ⟨_, _, -, h⟩ |
    ⟨_, -, h⟩ | ⟨-, h⟩ | ⟨_, -, h⟩ <;> rw [h]
  · exact outsideRun_radioIssue c k l op s
  · exact rfl
  · exact rfl
  · exact rfl
  · exact rfl
  · exact rfl
  · exact rfl
  · exact rfl
  · exact outsideRun_deliverFrame l s
  · exact rfl

/-- A run leaves the elements outside it alone. -/
theorem outsideRun_runLines (c : Instr) (k : List Micro) (l : Locals) (s : State) :
    outsideRun (runLines c k l s) = outsideRun s := by
  refine runLines_to (P := fun u => outsideRun u = outsideRun s)
    (Q := fun u => outsideRun u = outsideRun s) ?_ (fun _ h => h) l s rfl
  intro m k' l u _ hu
  rw [← hu]
  exact outsideRun_stepMicro c k' m l u

/-! ## Waits at a tick -/

/-- The transmit wait (42_transceiver.md rule R201): the done-flag is set. -/
theorem resumeWait_tx_done (c : Instr) (k : List Micro) (l : Locals) (start : Word) {s : State}
    (h : s.radio.irqTxDone = true) : resumeWait c k l (.tx start) s = runLines c k l s := if_pos h

/-- The transmit wait: no done-flag, and the timeout is reached. -/
theorem resumeWait_tx_timeout (c : Instr) (k : List Micro) (l : Locals) {start : Word} {s : State}
    (h : s.radio.irqTxDone = false) (ht : s.par.txTimeoutMs ≤ elapsedMs start s) :
    resumeWait c k l (.tx start) s = runLines c transmitTimeoutBody l (recordTxTimeout s) :=
  (if_neg (by rw [h]; exact Bool.false_ne_true)).trans (if_pos ht)

/-- The transmit wait: no done-flag, and the timeout is not reached. -/
theorem resumeWait_tx_stays (c : Instr) (k : List Micro) (l : Locals) {start : Word} {s : State}
    (h : s.radio.irqTxDone = false) (ht : elapsedMs start s < s.par.txTimeoutMs) :
    resumeWait c k l (.tx start) s = s :=
  (if_neg (by rw [h]; exact Bool.false_ne_true)).trans (if_neg (Nat.not_le.2 ht))

/-- The LightSleep wait (43_power.md rule R256): the timer fallback. -/
theorem resumeWait_light_wakes (c : Instr) (k : List Micro) (l : Locals) {start : Word} {s : State}
    (h : s.par.lightSleepMaxMs ≤ elapsedMs start s) :
    resumeWait c k l (.sleep .light start) s = lightWake 0x03 s := if_pos h

/-- The LightSleep wait holds. -/
theorem resumeWait_light_stays (c : Instr) (k : List Micro) (l : Locals) {start : Word} {s : State}
    (h : elapsedMs start s < s.par.lightSleepMaxMs) : resumeWait c k l (.sleep .light start) s = s :=
  if_neg (Nat.not_le.2 h)

/-- The DeepSleep wait (43_power.md rule R258): the maximum duration ends in a reset. -/
theorem resumeWait_deep_resets (c : Instr) (k : List Micro) (l : Locals) {start : Word} {s : State}
    (h : s.par.deepSleepMaxMs ≤ elapsedMs start s) :
    resumeWait c k l (.sleep .deep start) s = resetBlock s := if_pos h

/-- The DeepSleep wait holds. -/
theorem resumeWait_deep_stays (c : Instr) (k : List Micro) (l : Locals) {start : Word} {s : State}
    (h : elapsedMs start s < s.par.deepSleepMaxMs) : resumeWait c k l (.sleep .deep start) s = s :=
  if_neg (Nat.not_le.2 h)

/-- Everything a tick can do to a suspended command: run on from the end of its wait, go on waiting, time
out, wake from LightSleep, or reset. -/
theorem resumeWait_cases (c : Instr) (k : List Micro) (l : Locals) (w : Wait) (s : State) :
    (∃ op n, w = .ready op n ∧
        resumeWait c k l w s = continueWith c k (awaitReady c k l op (n.toNat + 1) s)) ∨
      (∃ m n, w = .readback m n ∧
        resumeWait c k l w s = continueWith c k (awaitReadback c k l m (n.toNat + 1) s)) ∨
      (∃ t, w = .tx t ∧
        (resumeWait c k l w s = runLines c k l s ∨
          resumeWait c k l w s = runLines c transmitTimeoutBody l (recordTxTimeout s) ∨
          resumeWait c k l w s = s)) ∨
      (∃ t, w = .sleep .light t ∧
        (resumeWait c k l w s = lightWake 0x03 s ∨ resumeWait c k l w s = s)) ∨
      ∃ t, w = .sleep .deep t ∧ (resumeWait c k l w s = resetBlock s ∨ resumeWait c k l w s = s) := by
  cases w with
  | ready op n => exact .inl ⟨op, n, rfl, rfl⟩
  | readback m n => exact .inr (.inl ⟨m, n, rfl, rfl⟩)
  | tx t =>
    refine .inr (.inr (.inl ⟨t, rfl, ?_⟩))
    by_cases hi : s.radio.irqTxDone = true
    · exact .inl (resumeWait_tx_done c k l t hi)
    · have hi' : s.radio.irqTxDone = false := by simpa using hi
      by_cases ht : s.par.txTimeoutMs ≤ elapsedMs t s
      · exact .inr (.inl (resumeWait_tx_timeout c k l hi' ht))
      · exact .inr (.inr (resumeWait_tx_stays c k l hi' (Nat.not_le.1 ht)))
  | sleep kind t =>
    cases kind with
    | light =>
      refine .inr (.inr (.inr (.inl ⟨t, rfl, ?_⟩)))
      by_cases ht : s.par.lightSleepMaxMs ≤ elapsedMs t s
      · exact .inl (resumeWait_light_wakes c k l ht)
      · exact .inr (resumeWait_light_stays c k l (Nat.not_le.1 ht))
    | deep =>
      refine .inr (.inr (.inr (.inr ⟨t, rfl, ?_⟩)))
      by_cases ht : s.par.deepSleepMaxMs ≤ elapsedMs t s
      · exact .inl (resumeWait_deep_resets c k l ht)
      · exact .inr (resumeWait_deep_stays c k l (Nat.not_le.1 ht))

end Sys2Proof.Machine
end

