-- ==== Sys2Proof/Laws/Agents.lean ====
section
/-! SUPPORT. The steps of the external agents (20_memory.md rules R86, R87; 44_fifo_pipeline.md rule R283),
and one step of the machine. -/

namespace Sys2Proof.Machine

/-! ## Clock -/

/-- A tick's first two parts, as one update. -/
theorem advanceClock_eq (s : State) :
    advanceClock s =
      { s with nowMs := s.nowMs + 1,
               graceDone := s.graceDone || decide (s.par.bootGraceMs ≤ (s.nowMs + 1).toNat) } := by
  unfold advanceClock graceComparator
  by_cases h : s.par.bootGraceMs ≤ (s.nowMs + 1).toNat
  · have hg : (s.graceDone || decide (s.par.bootGraceMs ≤ (s.nowMs + 1).toNat)) = true := by
      rw [decide_eq_true h, Bool.or_true]
    rw [if_pos h, hg]
  · have hg : (s.graceDone || decide (s.par.bootGraceMs ≤ (s.nowMs + 1).toNat)) = s.graceDone := by
      rw [decide_eq_false h, Bool.or_false]
    rw [if_neg h, hg]

@[simp] theorem advanceClock_phase (s : State) : (advanceClock s).phase = s.phase := by
  rw [advanceClock_eq]

@[simp] theorem advanceClock_nowMs (s : State) : (advanceClock s).nowMs = s.nowMs + 1 := by
  rw [advanceClock_eq]

@[simp] theorem advanceClock_par (s : State) : (advanceClock s).par = s.par := by
  rw [advanceClock_eq]

@[simp] theorem advanceClock_radio (s : State) : (advanceClock s).radio = s.radio := by
  rw [advanceClock_eq]

@[simp] theorem advanceClock_env (s : State) : (advanceClock s).env = s.env := by
  rw [advanceClock_eq]

/-- A tick with no command suspended. -/
theorem tickStep_idle {s : State} (h : s.phase = .idle) : tickStep s = advanceClock s := by
  simp [tickStep, resumeSuspended, h]

/-- A tick with a command suspended evaluates its wait against the new time. -/
theorem tickStep_running {s : State} {c : Instr} {k : List Micro} {l : Locals} {w : Wait}
    (h : s.phase = .running c k l w) : tickStep s = resumeWait c k l w (advanceClock s) := by
  simp [tickStep, resumeSuspended, h]

/-- A tick from `P`: the clock and the grace comparator keep `P`, then the evaluation of a wait, if there is
one, comes to `Q`. -/
theorem tickStep_to {P Q : State → Prop} (hclock : ∀ s, P s → P (advanceClock s)) (hidle : ∀ s, P s → Q s)
    (hwait : ∀ c k l w s, s.phase = .running c k l w → P s → Q (resumeWait c k l w s)) (s : State)
    (h : P s) : Q (tickStep s) := by
  cases hp : s.phase with
  | idle => rw [tickStep_idle hp]; exact hidle _ (hclock s h)
  | running c k l w =>
    rw [tickStep_running hp]
    exact hwait c k l w _ (by rw [advanceClock_phase, hp]) (hclock s h)

/-- One more tick at the end. -/
theorem ticks_succ (n : Nat) (s : State) : ticks (n + 1) s = tickStep (ticks n s) := by
  induction n generalizing s with
  | zero => rfl
  | succ n ih => exact ih (tickStep s)

/-- `n` ticks and then `m`. -/
theorem ticks_add (n m : Nat) (s : State) : ticks (n + m) s = ticks m (ticks n s) := by
  induction m with
  | zero => rfl
  | succ m ih => rw [← Nat.add_assoc, ticks_succ, ih, ticks_succ]

/-- One tick after `n` ticks is `n + 1` ticks, modulo 2^32. -/
theorem add_ofNat_succ (t : Word) (n : Nat) :
    t + BitVec.ofNat 32 n + 1 = t + BitVec.ofNat 32 (n + 1) := by
  rw [BitVec.add_assoc]
  congr 1
  exact (BitVec.ofNat_add n 1).symm

/-- Ticks that each leave a suspended command waiting move only the time base and the grace latch. -/
theorem ticks_waiting {s : State} {c : Instr} {k : List Micro} {l : Locals} {w : Wait}
    (hp : s.phase = .running c k l w) (n : Nat)
    (h : ∀ m g, m < n →
      resumeWait c k l w { s with nowMs := s.nowMs + BitVec.ofNat 32 (m + 1), graceDone := g } =
        { s with nowMs := s.nowMs + BitVec.ofNat 32 (m + 1), graceDone := g }) :
    ∃ g, ticks n s = { s with nowMs := s.nowMs + BitVec.ofNat 32 n, graceDone := g } := by
  induction n with
  | zero => exact ⟨s.graceDone, by rw [BitVec.add_zero]; rfl⟩
  | succ n ih =>
    obtain ⟨g, hg⟩ := ih fun m g hm => h m g (Nat.lt_succ_of_lt hm)
    rw [ticks_succ, hg, tickStep_running (by exact hp), advanceClock_eq]
    simp only [add_ofNat_succ]
    exact ⟨_, h n _ (Nat.lt_succ_self n)⟩

/-- Ticks that each find the radio busy below the ceiling count samples of a ready wait (42_transceiver.md
rule R194). -/
theorem ticks_busy {s : State} {c : Instr} {k : List Micro} {l : Locals} {op : RadioOp} {j : Nat}
    {rest : List Bool} (n : Nat) (hp : s.phase = .running c k l (.ready op (BitVec.ofNat 8 j)))
    (hj : j + n < s.par.busyRetryMax) (hmax : s.par.busyRetryMax ≤ 256)
    (hb : s.env.busy = List.replicate n true ++ rest) :
    ∃ g, ticks n s =
      { s with nowMs := s.nowMs + BitVec.ofNat 32 n, graceDone := g,
               phase := .running c k l (.ready op (BitVec.ofNat 8 (j + n))),
               env := { s.env with busy := rest } } := by
  induction n generalizing rest with
  | zero =>
    refine ⟨s.graceDone, ?_⟩
    rw [BitVec.add_zero, Nat.add_zero, ← hp, ← show s.env.busy = rest from hb]
    rfl
  | succ n ih =>
    obtain ⟨g, hg⟩ := ih (rest := true :: rest) (Nat.lt_trans (by omega) hj)
      (by rw [hb, List.replicate_succ', List.append_assoc]; rfl)
    have hv : (BitVec.ofNat 8 (j + n)).toNat + 1 = j + (n + 1) := by
      rw [BitVec.toNat_ofNat, Nat.mod_eq_of_lt (by omega), Nat.add_assoc]
    refine ⟨g || decide (s.par.bootGraceMs ≤ (s.nowMs + BitVec.ofNat 32 (n + 1)).toNat), ?_⟩
    rw [ticks_succ, hg,
      tickStep_running (c := c) (k := k) (l := l) (w := .ready op (BitVec.ofNat 8 (j + n))) rfl,
      advanceClock_eq]
    simp only [add_ofNat_succ, resumeWait, hv]
    generalize hu : { s with
      nowMs := s.nowMs + BitVec.ofNat 32 (n + 1)
      graceDone := g || decide (s.par.bootGraceMs ≤ (s.nowMs + BitVec.ofNat 32 (n + 1)).toNat)
      phase := .running c k l (.ready op (BitVec.ofNat 8 (j + n)))
      env := { s.env with busy := true :: rest } } = u
    have hbusy : u.env.busy = true :: rest := by rw [← hu]
    have hmax' : j + (n + 1) ≠ u.par.busyRetryMax := by rw [← hu]; exact Nat.ne_of_lt hj
    rw [awaitReady_again c k l op hbusy hmax', ← hu]
    rfl

/-- A ready wait that finds every sample busy meets the ceiling `P_BUSY_RETRY_MAX - 1` ticks after its first
sample (42_transceiver.md rule R194). -/
theorem ticks_busy_ceiling {s : State} {c : Instr} {k : List Micro} {l : Locals} {op : RadioOp} {m : Nat}
    {rest : List Bool} (hp : s.phase = .running c k l (.ready op (BitVec.ofNat 8 1)))
    (hN : s.par.busyRetryMax = m + 2) (hmax : s.par.busyRetryMax ≤ 256)
    (hb : s.env.busy = List.replicate m true ++ (true :: rest)) :
    ∃ g, ticks (m + 1) s =
      continueWith c k (transportFault c l
        { s with nowMs := s.nowMs + BitVec.ofNat 32 (m + 1), graceDone := g,
                 phase := .running c k l (.ready op (BitVec.ofNat 8 (1 + m))),
                 env := { s.env with busy := rest } }) := by
  obtain ⟨g, hg⟩ := ticks_busy (j := 1) (rest := true :: rest) m hp (by omega) hmax hb
  refine ⟨g || decide (s.par.bootGraceMs ≤ (s.nowMs + BitVec.ofNat 32 (m + 1)).toNat), ?_⟩
  rw [ticks_succ, hg, tickStep_running (w := .ready op (BitVec.ofNat 8 (1 + m))) rfl, advanceClock_eq]
  have hv : (BitVec.ofNat 8 (1 + m)).toNat + 1 = s.par.busyRetryMax := by
    rw [BitVec.toNat_ofNat, Nat.mod_eq_of_lt (by omega)]; omega
  simp only [resumeWait, hv, add_ofNat_succ]
  generalize hu : { s with
    nowMs := s.nowMs + BitVec.ofNat 32 (m + 1)
    graceDone := g || decide (s.par.bootGraceMs ≤ (s.nowMs + BitVec.ofNat 32 (m + 1)).toNat)
    phase := .running c k l (.ready op (BitVec.ofNat 8 (1 + m)))
    env := { s.env with busy := true :: rest } } = u
  have hbusy : u.env.busy = true :: rest := by rw [← hu]
  have hcap : s.par.busyRetryMax = u.par.busyRetryMax := by rw [← hu]
  rw [awaitReady_ceiling c k l op hbusy hcap, ← hu]

/-- The read-back wait of variant B: a tick that finds the radio busy below the ceiling. -/
theorem resumeWait_readback_again {s : State} (c : Instr) (k : List Micro) (l : Locals) (m : ChipMode)
    {n : Byte} {rest : List Bool} (h : s.env.busy = true :: rest) (hn : n.toNat + 1 ≠ s.par.busyRetryMax) :
    resumeWait c k l (.readback m n) s =
      suspend c k l (.readback m (BitVec.ofNat 8 (n.toNat + 1)))
        { s with env := { s.env with busy := rest } } := by
  simp only [resumeWait, awaitReadback, sampleBusy_again h hn, continueWith]

/-- Ticks that each find the radio busy below the ceiling count samples of a read-back wait
(42_transceiver.md rule R194). -/
theorem ticks_readback_busy {s : State} {c : Instr} {k : List Micro} {l : Locals} {m : ChipMode} {j : Nat}
    {rest : List Bool} (n : Nat) (hp : s.phase = .running c k l (.readback m (BitVec.ofNat 8 j)))
    (hj : j + n < s.par.busyRetryMax) (hmax : s.par.busyRetryMax ≤ 256)
    (hb : s.env.busy = List.replicate n true ++ rest) :
    ∃ g, ticks n s =
      { s with nowMs := s.nowMs + BitVec.ofNat 32 n, graceDone := g,
               phase := .running c k l (.readback m (BitVec.ofNat 8 (j + n))),
               env := { s.env with busy := rest } } := by
  induction n generalizing rest with
  | zero =>
    refine ⟨s.graceDone, ?_⟩
    rw [BitVec.add_zero, Nat.add_zero, ← hp, ← show s.env.busy = rest from hb]
    rfl
  | succ n ih =>
    obtain ⟨g, hg⟩ := ih (rest := true :: rest) (Nat.lt_trans (by omega) hj)
      (by rw [hb, List.replicate_succ', List.append_assoc]; rfl)
    have hv : (BitVec.ofNat 8 (j + n)).toNat + 1 = j + (n + 1) := by
      rw [BitVec.toNat_ofNat, Nat.mod_eq_of_lt (by omega), Nat.add_assoc]
    rw [ticks_succ, hg,
      tickStep_running (c := c) (k := k) (l := l) (w := .readback m (BitVec.ofNat 8 (j + n))) rfl,
      advanceClock_eq, resumeWait_readback_again c k l m (rest := rest) rfl (by rw [hv]; exact Nat.ne_of_lt hj),
      hv]
    simp only [add_ofNat_succ]
    exact ⟨_, rfl⟩

/-- Ticks with no command suspended move only the time base and the grace latch. -/
theorem ticks_idle {s : State} (hp : s.phase = .idle) (n : Nat) :
    ∃ g, ticks n s = { s with nowMs := s.nowMs + BitVec.ofNat 32 n, graceDone := g } := by
  induction n with
  | zero => exact ⟨s.graceDone, by rw [BitVec.add_zero]; rfl⟩
  | succ n ih =>
    obtain ⟨g, hg⟩ := ih
    rw [ticks_succ, hg, tickStep_idle (by exact hp), advanceClock_eq]
    simp only [add_ofNat_succ]
    exact ⟨_, rfl⟩

/-- The time since a stamp of now, `n` milliseconds later, is `n` while it does not wrap. -/
theorem elapsed_since_now (t : Word) {n : Nat} (h : n < 2 ^ 32) :
    (t + BitVec.ofNat 32 n - t).toNat = n := by
  rw [BitVec.add_comm, BitVec.add_sub_cancel, BitVec.toNat_ofNat, Nat.mod_eq_of_lt h]

/-! ## Trigger -/

/-- A trigger outside the sleep waits is debounced and pushed, and does nothing else. -/
theorem triggerStep_awake {s : State} (h : sleepingIn s.phase = none) :
    triggerStep s = debounceTrigger s := by
  unfold triggerStep
  split
  · rename_i hp; rw [hp] at h; cases h
  · rename_i hp; rw [hp] at h; cases h
  · rfl

/-- Whether a trigger is accepted (44_fifo_pipeline.md rule R282). -/
theorem triggerAccepted_iff {s : State} :
    triggerAccepted s = true ↔
      s.anyAccepted = false ∨ s.par.debounceMs ≤ (s.nowMs - s.lastAcceptMs).toNat := by
  unfold triggerAccepted elapsedMs
  rw [Bool.or_eq_true, Bool.not_eq_true']
  exact or_congr Iff.rfl decide_eq_true_iff

/-- The debounce and push part: rejected, accepted and pushed, or accepted and dropped. -/
theorem debounceTrigger_cases (s : State) :
    (triggerAccepted s = false ∧ debounceTrigger s = s) ∨
      (triggerAccepted s = true ∧ s.evq.length < s.par.evqCap ∧
        debounceTrigger s =
          { s with lastAcceptMs := s.nowMs, anyAccepted := true, evq := s.evq ++ [0x01] }) ∨
      (triggerAccepted s = true ∧ ¬ s.evq.length < s.par.evqCap ∧
        debounceTrigger s = dropEvq { s with lastAcceptMs := s.nowMs, anyAccepted := true }) := by
  unfold debounceTrigger
  by_cases ha : triggerAccepted s = true
  · rw [if_pos ha]
    rcases pushEvq_cases 0x01 { s with lastAcceptMs := s.nowMs, anyAccepted := true } with
      ⟨hl, h⟩ | ⟨hl, h⟩
    · exact .inr (.inl ⟨ha, hl, by rw [h]⟩)
    · exact .inr (.inr ⟨ha, hl, by rw [h]⟩)
  · rw [if_neg ha]
    exact .inl ⟨by simpa using ha, rfl⟩

/-- A trigger step from `P`: the debounce and push, after a LightSleep wake or alone; or a reset. -/
theorem triggerStep_to {P Q : State → Prop} (hpush : ∀ s, P s → Q (debounceTrigger s))
    (hwake : ∀ c k l t s, s.phase = .running c k l (.sleep .light t) → P s → P (lightWake 0x02 s))
    (hreset : ∀ s, P s → Q (resetBlock s)) (s : State) (h : P s) : Q (triggerStep s) := by
  unfold triggerStep
  split
  · exact hreset s h
  · rename_i hp
    exact hpush _ (hwake _ _ _ _ s hp h)
  · exact hpush s h

/-! ## One step -/

/-- A scheduled agent step is the step taken. -/
theorem step_scheduled {s : State} {a : AgentStep} {rest : List AgentStep} (h : s.env.sched = a :: rest) :
    step s = agentStep a { s with env := { s.env with sched := rest } } := by
  simp only [step, atomicStep, drawStep_cons h]

/-- The step of the agent that is drawn. -/
theorem step_of_draw {s u : State} {a : AgentStep} (h : drawStep s = (a, u)) : step s = agentStep a u := by
  simp only [step, atomicStep, h]

/-- A step that resets the block leaves the reset values, the parameters, the radio and the environment
(70_reset_and_hazards.md rule R380). -/
theorem step_resets {s : State} (h : resetsNext s = true) :
    step s = .next (State.resetWith s.par s.radio (drawStep s).2.env) := by
  obtain ⟨a, e, hd⟩ := drawStep_frame s
  rw [step_of_draw hd, hd]
  unfold resetsNext at h
  rw [hd] at h
  dsimp only at h
  split at h
  · rfl
  · rename_i hp
    simp only [agentStep, triggerStep, hp]
    rfl
  · rename_i hp
    have hp' : ({ s with env := e } : State).phase = _ := hp
    have hd : s.par.deepSleepMaxMs ≤ (s.nowMs + 1 - _).toNat := of_decide_eq_true h
    rw [agentStep, tickStep_running hp', resumeWait_deep_resets _ _ _ (by
      simpa only [elapsedMs, advanceClock_nowMs, advanceClock_par] using hd), resetBlock, advanceClock_par,
      advanceClock_radio, advanceClock_env]
  · cases h

/-- Every step is some agent's, on a state in which only the environment has changed. -/
theorem step_is_agentStep (s : State) : ∃ a e, step s = agentStep a { s with env := e } := by
  obtain ⟨a, e, h⟩ := drawStep_frame s
  exact ⟨a, e, by simp only [step, atomicStep, h]⟩

/-- A host write at an open port accepts a byte, on a state in which only the environment has changed; at a
closed port nothing happens. -/
theorem hostWriteStep_cases (s : State) :
    (portAccepts s = true ∧ ∃ b e, hostWriteStep s = acceptByte b { s with env := e }) ∨
      (portAccepts s = false ∧ hostWriteStep s = .next s) := by
  by_cases h : portAccepts s = true
  · obtain ⟨b, e, hb⟩ := drawHostByte_frame s
    exact .inl ⟨h, b, e, by simp only [hostWriteStep, h, if_true, hb]⟩
  · exact .inr ⟨by simpa using h, by simp only [hostWriteStep, h]; rfl⟩

/-- The port accepts exactly when no command runs and no response waits. -/
theorem portAccepts_iff {s : State} : portAccepts s = true ↔ s.phase = .idle ∧ s.resp = none := by
  simp [portAccepts]

/-- An accepted byte completes a command, which executes; or is or completes no legal command, answered
`E_OPCODE`; or is kept. -/
theorem acceptByte_cases (b : Byte) (s : State) :
    (complete (s.cmdBuf ++ [b]) = true ∧ ∃ i rest, decode (s.cmdBuf ++ [b]) = .ok (i, rest) ∧
        acceptByte b s = exec i { s with cmdBuf := [] }) ∨
      (complete (s.cmdBuf ++ [b]) = true ∧ (∃ e, decode (s.cmdBuf ++ [b]) = .error e) ∧
        acceptByte b s = .next (respond .eOpcode [] { s with cmdBuf := [] })) ∨
      (complete (s.cmdBuf ++ [b]) = false ∧
        acceptByte b s = .next { s with cmdBuf := s.cmdBuf ++ [b] }) := by
  by_cases hc : complete (s.cmdBuf ++ [b]) = true
  · cases hd : decode (s.cmdBuf ++ [b]) with
    | ok p => exact .inl ⟨hc, p.1, p.2, rfl, by simp [acceptByte, hc, hd]⟩
    | error e => exact .inr (.inl ⟨hc, ⟨e, rfl⟩, by simp [acceptByte, hc, hd]⟩)
  · exact .inr (.inr ⟨by simpa using hc, by simp [acceptByte, hc]⟩)

/-- The case analysis over the kinds of step of 20_memory.md rule R86: if from `P` every agent's step, a
command begun at an open port among them, comes to `Q`, then every step from `P` comes to `Q`. -/
theorem step_to {P Q : State → Prop}
    (henv : ∀ s e, P s → P { s with env := e }) (hskip : ∀ s, P s → Q s)
    (hread : ∀ s, P s → Q (hostReadStep s)) (htick : ∀ s, P s → Q (tickStep s))
    (htrigger : ∀ s, P s → Q (triggerStep s)) (hrx : ∀ f raw s, P s → Q (rxDoneStep f raw s))
    (htx : ∀ s, P s → Q (txDoneStep s)) (hreset : ∀ s, P s → Q (resetBlock s))
    (hexec : ∀ i s t, P s → s.phase = .idle → s.resp = none →
      exec i { s with cmdBuf := [] } = .next t → Q t)
    (hillegal : ∀ s, P s → s.phase = .idle → s.resp = none →
      Q (respond .eOpcode [] { s with cmdBuf := [] }))
    (hkept : ∀ b s, P s → s.phase = .idle → s.resp = none → complete (s.cmdBuf ++ [b]) = false →
      Q { s with cmdBuf := s.cmdBuf ++ [b] })
    {s t : State} (hs : P s) (h : step s = .next t) : Q t := by
  obtain ⟨a, e, ha⟩ := step_is_agentStep s
  rw [ha] at h
  have hs' := henv s e hs
  generalize { s with env := e } = u at h hs'
  cases a with
  | hostWrite =>
    rcases hostWriteStep_cases u with ⟨hp, b, e', hw⟩ | ⟨-, hw⟩
    · obtain ⟨hidle, hresp⟩ := portAccepts_iff.1 hp
      have hu := henv u e' hs'
      have h' : acceptByte b { u with env := e' } = .next t := hw.symm.trans h
      rcases acceptByte_cases b { u with env := e' } with ⟨-, i, rest, -, hx⟩ | ⟨-, -, hx⟩ | ⟨hc, hx⟩
      · exact hexec i _ t hu hidle hresp (hx.symm.trans h')
      · rw [hx] at h'; cases h'; exact hillegal _ hu hidle hresp
      · rw [hx] at h'; cases h'; exact hkept b _ hu hidle hresp hc
    · have h' : Host.Outcome.next u = .next t := hw.symm.trans h
      cases h'; exact hskip _ hs'
  | hostRead => cases h; exact hread u hs'
  | tick => cases h; exact htick u hs'
  | trigger => cases h; exact htrigger u hs'
  | rxDone f raw => cases h; exact hrx f raw u hs'
  | txDone => cases h; exact htx u hs'
  | powerOnReset => cases h; exact hreset u hs'

/-- The induction over the kinds of step: what every agent's step keeps, every step keeps. -/
theorem step_keeps {I : State → Prop}
    (henv : ∀ s e, I s → I { s with env := e })
    (hread : ∀ s, I s → I (hostReadStep s)) (htick : ∀ s, I s → I (tickStep s))
    (htrigger : ∀ s, I s → I (triggerStep s)) (hrx : ∀ f raw s, I s → I (rxDoneStep f raw s))
    (htx : ∀ s, I s → I (txDoneStep s)) (hreset : ∀ s, I s → I (resetBlock s))
    (hexec : ∀ i s t, I s → s.phase = .idle → s.resp = none →
      exec i { s with cmdBuf := [] } = .next t → I t)
    (hillegal : ∀ s, I s → s.phase = .idle → s.resp = none →
      I (respond .eOpcode [] { s with cmdBuf := [] }))
    (hkept : ∀ b s, I s → s.phase = .idle → s.resp = none → complete (s.cmdBuf ++ [b]) = false →
      I { s with cmdBuf := s.cmdBuf ++ [b] })
    {s t : State} (hs : I s) (h : step s = .next t) : I t :=
  step_to henv (fun _ h => h) hread htick htrigger hrx htx hreset hexec hillegal hkept hs h

end Sys2Proof.Machine
end

