-- ==== Sys2Proof/Laws/Commands.lean ====
section
/-! SUPPORT. What executing a command can do (30_encoding.md rule R112): it answers at once, or it runs the
lines of its body. -/

namespace Sys2Proof.Machine

/-- What a command that answers at once leaves alone: it writes none of the elements of the command
sequencer, the radio, the clock and the debouncer, and keeps the FIFOs bounded and the power latches sampled
once. -/
def answersFrom (s u : State) : Prop :=
  u.par = s.par ∧ u.phase = s.phase ∧ u.nowMs = s.nowMs ∧ u.graceDone = s.graceDone ∧
    u.lastAcceptMs = s.lastAcceptMs ∧ u.anyAccepted = s.anyAccepted ∧ u.pwrState = s.pwrState ∧
    u.radioMode = s.radioMode ∧ u.rxPending = s.rxPending ∧ u.configured = s.configured ∧
    u.radio = s.radio ∧ u.cmdBuf = s.cmdBuf ∧ u.resp = s.resp ∧ (fifosBounded s → fifosBounded u) ∧
    ((u.extPowered = s.extPowered ∧ u.battSampled = s.battSampled) ∨
      s.battSampled = false ∧ u.battSampled = true)

/-- The body `k` a command runs, and the state `u` it starts it in. -/
def startsRun (i : Instr) (s : State) (k : List Micro) (u : State) : Prop :=
  match i with
  | .radioInit => k = initBody ∧ u = { s with configured := false }
  | .radioTransmit _ => k = transmitBody ∧ u = s
  | .radioReceive m => k = receiveBody m ++ [.respondFrame] ∧ u = s
  | .radioSleep => k = radioSleepBody ∧ u = s
  | .radioWake => (k = wakeToStandbyBody ∨ k = wakeToReceiveBody) ∧ (u = s ∨ u = countDraw s)
  | .radioRxStart => k = rxStartBody ∧ u = s
  | .pwrTick b => ∃ kind, k = enterSleepBody kind ∧ u = sampleBattery b s ∧ u.extPowered = false
  | .pipeSend => k = transmitBody ∧ ∃ p q, s.txq = p :: q ∧ u = { s with txq := q }
  | .pipeRecv => k = receiveBody 255 ++ [.deliver] ∧ u = s
  | _ => False

theorem answersFrom_refl (s : State) : answersFrom s s :=
  ⟨rfl, rfl, rfl, rfl, rfl, rfl, rfl, rfl, rfl, rfl, rfl, rfl, rfl, id, .inl ⟨rfl, rfl⟩⟩

/-- The first PWR_TICK after reset samples the battery; a later one changes nothing (43_power.md rule
R252). -/
theorem sampleBattery_cases (b : Byte) (s : State) :
    (s.battSampled = true ∧ sampleBattery b s = s) ∨
      (s.battSampled = false ∧
        sampleBattery b s = { s with extPowered := decide (b = 0), battSampled := true }) := by
  unfold sampleBattery
  cases s.battSampled
  · exact .inr ⟨rfl, rfl⟩
  · exact .inl ⟨rfl, rfl⟩

theorem answersFrom_sampleBattery (b : Byte) (s : State) : answersFrom s (sampleBattery b s) := by
  rcases sampleBattery_cases b s with ⟨-, h⟩ | ⟨hs, h⟩
  · rw [h]; exact answersFrom_refl s
  · rw [h]
    exact ⟨rfl, rfl, rfl, rfl, rfl, rfl, rfl, rfl, rfl, rfl, rfl, rfl, rfl, id, .inr ⟨hs, rfl⟩⟩

/-- PWR_TICK's decision (43_power.md rule R253): it answers, or it enters a sleep while not externally
powered. -/
theorem powerDecision_cases (b : Byte) (s : State) :
    (∃ pl, powerDecision b s = respond .ok pl s) ∨
      (s.extPowered = false ∧
        ∃ kind, powerDecision b s = runLines (.pwrTick b) (enterSleepBody kind) noLocals s) := by
  unfold powerDecision
  by_cases h1 : (s.extPowered || !s.graceDone) = true
  · rw [if_pos h1]; exact .inl ⟨_, rfl⟩
  · rw [if_neg h1]
    have he : s.extPowered = false := by
      cases h : s.extPowered
      · rfl
      · rw [h] at h1; exact absurd rfl h1
    split
    · exact .inr ⟨he, _, rfl⟩
    · split
      · exact .inr ⟨he, _, rfl⟩
      · exact .inl ⟨_, rfl⟩

/-- Everything executing a command can do. -/
theorem exec_cases (i : Instr) (s : State) :
    (∃ st pl u, exec i s = .next (respond st pl u) ∧ answersFrom s u) ∨
      ∃ k l u, exec i s = .next (runLines i k l u) ∧ startsRun i s k u := by
  have here : ∀ {st pl}, exec i s = .next (respond st pl s) →
      (∃ st pl u, exec i s = .next (respond st pl u) ∧ answersFrom s u) ∨
        ∃ k l u, exec i s = .next (runLines i k l u) ∧ startsRun i s k u :=
    fun h => .inl ⟨_, _, s, h, answersFrom_refl s⟩
  cases i with
  | nop => exact here rfl
  | statusRead => exact here rfl
  | timeRead => exact here rfl
  | crc16 data => exact here rfl
  | pktSerialize => exact here rfl
  | pktValidate => exact here rfl
  | radioPoll => exact here rfl
  | radioRssi => exact here rfl
  | queueStatus => exact here rfl
  | statusClear mask =>
    exact .inl ⟨_, _, _, rfl, rfl, rfl, rfl, rfl, rfl, rfl, rfl, rfl, rfl, rfl, rfl, rfl, rfl, id,
      .inl ⟨rfl, rfl⟩⟩
  | pktBuild n t e b =>
    exact .inl ⟨_, _, _, rfl, rfl, rfl, rfl, rfl, rfl, rfl, rfl, rfl, rfl, rfl, rfl, rfl, rfl, id,
      .inl ⟨rfl, rfl⟩⟩
  | pktDeserialize f =>
    exact .inl ⟨_, _, _, rfl, rfl, rfl, rfl, rfl, rfl, rfl, rfl, rfl, rfl, rfl, rfl, rfl, rfl, id,
      .inl ⟨rfl, rfl⟩⟩
  | pwrNotify =>
    exact .inl ⟨_, _, _, rfl, rfl, rfl, rfl, rfl, rfl, rfl, rfl, rfl, rfl, rfl, rfl, rfl, rfl, id,
      .inl ⟨rfl, rfl⟩⟩
  | cntRead idx =>
    cases h : counterRead idx s.counters with
    | some v => exact here (by simp only [exec, execCntRead, h]; rfl)
    | none => exact here (by simp only [exec, execCntRead, h]; rfl)
  | cfgRead idx =>
    cases h : cfgRead s.par idx s.cfg with
    | some v => exact here (by simp only [exec, execCfgRead, h]; rfl)
    | none => exact here (by simp only [exec, execCfgRead, h]; rfl)
  | cfgWrite idx v =>
    cases h : cfgWrite idx v s.cfg with
    | some r =>
      exact .inl ⟨.ok, [], { s with cfg := r }, by simp only [exec, execCfgWrite, h],
        rfl, rfl, rfl, rfl,
        rfl, rfl, rfl, rfl, rfl, rfl, rfl, rfl, rfl, id, .inl ⟨rfl, rfl⟩⟩
    | none => exact here (by simp only [exec, execCfgWrite, h]; rfl)
  | evqPush e =>
    rcases pushEvq_cases e s with ⟨hl, h⟩ | ⟨-, h⟩
    · refine .inl ⟨.ok, [], { s with evq := s.evq ++ [e] }, by simp only [exec, execEvqPush, h],
      rfl, rfl,
        rfl, rfl, rfl, rfl, rfl, rfl, rfl, rfl, rfl, rfl, rfl, fun hf => ⟨?_, hf.2⟩, .inl ⟨rfl, rfl⟩⟩
      rw [List.length_append]
      exact hl
    · exact .inl ⟨.eFull, [], dropEvq s, by simp only [exec, execEvqPush, h]; rfl,
      rfl, rfl, rfl, rfl, rfl,
        rfl, rfl, rfl, rfl, rfl, rfl, rfl, rfl, id, .inl ⟨rfl, rfl⟩⟩
  | evqPop =>
    cases h : s.evq with
    | nil => exact here (by simp only [exec, execEvqPop, h]; rfl)
    | cons e q =>
      refine .inl ⟨.ok, [e], { s with evq := q }, by simp only [exec, execEvqPop, h],
        rfl, rfl, rfl, rfl,
        rfl, rfl, rfl, rfl, rfl, rfl, rfl, rfl, rfl, fun hf => ⟨?_, hf.2⟩, .inl ⟨rfl, rfl⟩⟩
      have := hf.1
      rw [h] at this
      exact Nat.le_of_succ_le this
  | rxqPop =>
    cases h : s.rxq with
    | nil => exact here (by simp only [exec, execRxqPop, h]; rfl)
    | cons p q =>
      refine .inl ⟨.ok, frame p, { s with rxq := q }, by simp only [exec, execRxqPop, h],
        rfl, rfl, rfl,
        rfl, rfl, rfl, rfl, rfl, rfl, rfl, rfl, rfl, rfl, fun hf => ⟨hf.1, hf.2.1, ?_⟩, .inl ⟨rfl, rfl⟩⟩
      have := hf.2.2
      rw [h] at this
      exact Nat.le_of_succ_le this
  | pipeBuild b =>
    cases h : s.evq with
    | nil => exact here (by simp only [exec, execPipeBuild, h]; rfl)
    | cons e q =>
      rcases pushTxq_cases (buildPacket s.par s.cfg.nodeId s.nowMs e b) (notify { s with evq := q }) with
        ⟨hl, h'⟩ | ⟨-, h'⟩
      · refine .inl ⟨.ok, [], { notify { s with evq := q } with
            txq := s.txq ++ [buildPacket s.par s.cfg.nodeId s.nowMs e b] },
          by simp only [exec, execPipeBuild, h, h']; rfl, rfl, rfl, rfl, rfl, rfl, rfl, rfl,
          rfl, rfl, rfl, rfl, rfl, rfl, fun hf => ⟨?_, ?_, hf.2.2⟩, .inl ⟨rfl, rfl⟩⟩
        · have := hf.1
          rw [h] at this
          exact Nat.le_of_succ_le this
        · rw [List.length_append]
          exact hl
      · refine .inl ⟨.eFull, [], dropTxq (notify { s with evq := q }),
          by simp only [exec, execPipeBuild, h, h']; rfl, rfl, rfl, rfl, rfl, rfl,
          rfl, rfl, rfl, rfl, rfl, rfl, rfl, rfl, fun hf => ⟨?_, hf.2⟩, .inl ⟨rfl, rfl⟩⟩
        have := hf.1
        rw [h] at this
        exact Nat.le_of_succ_le this
  | radioInit => exact .inr ⟨_, _, _, rfl, rfl, rfl⟩
  | radioTransmit d =>
    by_cases hd : d.length = 0
    · exact here (by simp only [exec, execRadioTransmit, if_pos hd]; rfl)
    · cases hc : s.configured with
      | true =>
        exact .inr ⟨_, _, s, by simp only [exec, execRadioTransmit, if_neg hd, hc, if_true]; rfl,
          rfl, rfl⟩
      | false => exact here (by simp only [exec, execRadioTransmit, if_neg hd, hc]; rfl)
  | radioReceive m =>
    by_cases hm : m = 0
    · exact here (by simp only [exec, execRadioReceive, if_pos hm]; rfl)
    · cases hc : s.rxPending with
      | true =>
        exact .inr ⟨_, _, s, by simp only [exec, execRadioReceive, if_neg hm, hc, if_true]; rfl,
          rfl, rfl⟩
      | false => exact here (by simp only [exec, execRadioReceive, if_neg hm, hc]; rfl)
  | radioSleep => exact .inr ⟨_, _, s, rfl, rfl, rfl⟩
  | radioWake =>
    have toReceive : ∀ u, (∃ st pl, wakeToReceive u = respond st pl u) ∨
        wakeToReceive u = runLines .radioWake wakeToReceiveBody noLocals u := by
      intro u
      unfold wakeToReceive
      split
      · exact .inr rfl
      · exact .inl ⟨_, _, rfl⟩
    cases hm : s.radioMode with
    | sleep => exact .inr ⟨_, _, s, by simp only [exec, execRadioWake, hm]; rfl, .inl rfl, .inl rfl⟩
    | standby =>
      rcases toReceive s with ⟨st, pl, h⟩ | h
      · exact here (by simp only [exec, execRadioWake, hm, h]; rfl)
      · exact .inr ⟨_, _, s, by simp only [exec, execRadioWake, hm, h]; rfl, .inr rfl, .inl rfl⟩
    | receivingContinuous => exact here (by simp only [exec, execRadioWake, hm]; rfl)
    | transmitting =>
      have hdraw : answersFrom s (countDraw s) :=
        ⟨rfl, rfl, rfl, rfl, rfl, rfl, rfl, rfl, rfl, rfl, rfl, rfl, rfl, id, .inl ⟨rfl, rfl⟩⟩
      cases ha : Config.freeWake s.env.draws with
      | toStandby =>
        exact .inr ⟨_, _, countDraw s, by simp only [exec, execRadioWake, hm, ha]; rfl,
          .inl rfl, .inr rfl⟩
      | toReceive =>
        rcases toReceive (countDraw s) with ⟨st, pl, h⟩ | h
        · exact .inl ⟨st, pl, countDraw s, by simp only [exec, execRadioWake, hm, ha, h], hdraw⟩
        · exact .inr ⟨_, _, countDraw s, by simp only [exec, execRadioWake, hm, ha, h]; rfl,
          .inr rfl, .inr rfl⟩
      | noEffect => exact .inl ⟨_, _, countDraw s, by simp only [exec, execRadioWake, hm, ha]; rfl,
        hdraw⟩
  | radioRxStart =>
    cases hc : s.configured with
    | false => exact here (by simp only [exec, execRadioRxStart, hc]; rfl)
    | true =>
      by_cases hm : s.radioMode = .receivingContinuous
      · exact here (by simp only [exec, execRadioRxStart, hc, if_true, if_pos hm]; rfl)
      · exact .inr ⟨_, _, s, by simp only [exec, execRadioRxStart, hc, if_true, if_neg hm]; rfl,
        rfl, rfl⟩
  | pwrTick b =>
    rcases powerDecision_cases b (sampleBattery b s) with ⟨pl, h⟩ | ⟨he, kind, h⟩
    · exact .inl ⟨.ok, pl, sampleBattery b s, by simp only [exec, execPwrTick, h],
        answersFrom_sampleBattery b s⟩
    · exact .inr ⟨_, _, sampleBattery b s, by simp only [exec, execPwrTick, h]; rfl, kind, rfl, rfl, he⟩
  | pipeSend =>
    cases hc : s.configured with
    | false => exact here (by simp only [exec, execPipeSend, hc]; rfl)
    | true =>
      cases hq : s.txq with
      | nil => exact here (by simp only [exec, execPipeSend, hc, if_true, hq]; rfl)
      | cons p q =>
        exact .inr ⟨_, _, _, by simp only [exec, execPipeSend, hc, if_true, hq]; rfl, rfl, p, q, hq, rfl⟩
  | pipeRecv =>
    cases hc : s.rxPending with
    | true => exact .inr ⟨_, _, s, by simp only [exec, execPipeRecv, hc, if_true]; rfl, rfl, rfl⟩
    | false => exact here (by simp only [exec, execPipeRecv, hc]; rfl)

end Sys2Proof.Machine
end

