-- ==== Sys2Proof/Laws/Crc.lean ====
section
/-! SUPPORT. What one turn of the CRC register does (40_crc.md rule R152): it is linear over GF(2), and it is
injective when the generator has the constant term 1. -/

namespace Sys2Proof.Machine

/-! ## Linearity -/

/-- One turn of the inner loop is linear. -/
theorem crcBit_xor (poly x y : Half) : crcBit poly (x ^^^ y) = crcBit poly x ^^^ crcBit poly y := by
  have h : (x ^^^ y).msb = (x.msb ^^ y.msb) := BitVec.msb_xor
  unfold crcBit
  rw [h]
  cases hx : x.msb <;> cases hy : y.msb <;>
    simp only [Bool.xor_false, Bool.xor_true, Bool.not_true, Bool.not_false, if_true, if_false,
      Bool.false_eq_true, BitVec.shiftLeft_xor_distrib]
  · ac_rfl
  · ac_rfl
  · have : (x <<< 1 ^^^ poly) ^^^ (y <<< 1 ^^^ poly) = (x <<< 1 ^^^ y <<< 1) ^^^ (poly ^^^ poly) := by ac_rfl
    rw [this, BitVec.xor_self, BitVec.xor_zero]

/-- The inner loop is linear. -/
theorem crcBits_xor (poly : Half) (n : Nat) (x y : Half) :
    crcBits poly n (x ^^^ y) = crcBits poly n x ^^^ crcBits poly n y := by
  induction n generalizing x y with
  | zero => rfl
  | succ n ih => simp only [crcBits, crcBit_xor, ih]

/-- Reflection is linear. -/
theorem reflect_xor {n : Nat} (x y : BitVec n) : reflect (x ^^^ y) = reflect x ^^^ reflect y := by
  ext i hi
  simp [reflect, BitVec.getElem_reverse, BitVec.getMsbD_xor]

/-- Reflection is its own inverse. -/
theorem reflect_reflect {n : Nat} (x : BitVec n) : reflect (reflect x) = x := by
  simp [reflect]

/-! ## Injectivity -/

/-- With an odd generator, one turn of the inner loop sends only 0 to 0. -/
theorem crcBit_eq_zero {poly x : Half} (hp : poly.getLsbD 0 = true) (h : crcBit poly x = 0) : x = 0 := by
  unfold crcBit at h
  split at h
  · have h0 := congrArg (BitVec.getLsbD · 0) h
    simp at h0
    simp [BitVec.getLsbD_eq_getElem] at hp
    simp [hp] at h0
  · rename_i hm
    ext i hi
    by_cases h15 : i = 15
    · subst h15
      simpa [BitVec.msb_eq_getLsbD_last] using hm
    · have hi1 := congrArg (BitVec.getLsbD · (i + 1)) h
      have : i + 1 < 16 := by omega
      simpa [BitVec.getLsbD_shiftLeft, this, BitVec.getLsbD_eq_getElem hi] using hi1

/-- With an odd generator the inner loop sends only 0 to 0. -/
theorem crcBits_eq_zero {poly : Half} (hp : poly.getLsbD 0 = true) (n : Nat) {x : Half}
    (h : crcBits poly n x = 0) : x = 0 := by
  induction n generalizing x with
  | zero => exact h
  | succ n ih => exact crcBit_eq_zero hp (ih h)

/-- With an odd generator the inner loop is injective. -/
theorem crcBits_injective {poly : Half} (hp : poly.getLsbD 0 = true) (n : Nat) {x y : Half}
    (h : crcBits poly n x = crcBits poly n y) : x = y := by
  have : crcBits poly n (x ^^^ y) = 0 := by rw [crcBits_xor, h, BitVec.xor_self]; rfl
  have hz := crcBits_eq_zero hp n this
  exact BitVec.xor_eq_zero_iff.1 hz

end Sys2Proof.Machine
end

