-- ==== Sys2Proof/Laws/Decode.lean ====
section
/-! SUPPORT. Byte order, the opcode map, and the length of an encoding. -/

namespace Sys2Proof

/-! ## Byte order -/

/-- The bytes of a 16-bit value put together from two bytes are those bytes. -/
theorem be16_fromBe16 (a b : Byte) : be16 (fromBe16 a b) = [a, b] := by
  unfold be16
  congr 1
  · ext i hi; interval_cases i <;> simp [fromBe16, BitVec.getLsbD_eq_getElem]
  · congr 1
    ext i hi; interval_cases i <;> simp [fromBe16, BitVec.getLsbD_eq_getElem]

/-- A 16-bit value put together from its own bytes is itself. -/
theorem fromBe16_be16 (v : Half) : fromBe16 (v.extractLsb' 8 8) (v.extractLsb' 0 8) = v := by
  ext i hi; interval_cases i <;> simp [fromBe16, BitVec.getLsbD_eq_getElem]

/-- The bytes of a 32-bit value put together from four bytes are those bytes. -/
theorem be32_fromBe32 (a b c d : Byte) : be32 (fromBe32 a b c d) = [a, b, c, d] := by
  unfold be32
  refine List.cons_eq_cons.2 ⟨?_, List.cons_eq_cons.2 ⟨?_, List.cons_eq_cons.2 ⟨?_,
    List.cons_eq_cons.2 ⟨?_, rfl⟩⟩⟩⟩ <;>
  · ext i hi; interval_cases i <;> simp [fromBe32, BitVec.getLsbD_eq_getElem]

/-- A 32-bit value put together from its own bytes is itself. -/
theorem fromBe32_be32 (v : Word) :
    fromBe32 (v.extractLsb' 24 8) (v.extractLsb' 16 8) (v.extractLsb' 8 8) (v.extractLsb' 0 8) = v := by
  ext i hi; interval_cases i <;> simp [fromBe32, BitVec.getLsbD_eq_getElem]

@[simp] theorem be16_length (v : Half) : (be16 v).length = 2 := rfl

@[simp] theorem be32_length (v : Word) : (be32 v).length = 4 := rfl

/-- `from_be16` of the bytes of a length that fits 16 bits is the length. -/
theorem fromBe16_ofNat_toNat {n : Nat} (h : n ≤ 65535) :
    (fromBe16 ((BitVec.ofNat 16 n).extractLsb' 8 8) ((BitVec.ofNat 16 n).extractLsb' 0 8)).toNat = n := by
  rw [fromBe16_be16, BitVec.toNat_ofNat, Nat.mod_eq_of_lt (by omega)]

/-! ## The opcode map (30_encoding.md rule R117) -/

/-- Each row's byte names that row and no other. -/
@[simp] theorem opcodeOf_opcodeByte (o : Opcode) : opcodeOf (opcodeByte o) = some o := by
  cases o <;> rfl

/-- A byte that names a row is that row's byte. -/
theorem opcodeByte_of_opcodeOf {b : Byte} {o : Opcode} (h : opcodeOf b = some o) : opcodeByte o = b := by
  have := List.find?_some h
  simpa using this

/-- The opcode map has 29 rows, one per opcode. -/
theorem opcodeOf_eq_some {b : Byte} {o : Opcode} : opcodeOf b = some o ↔ b = opcodeByte o :=
  ⟨fun h => (opcodeByte_of_opcodeOf h).symm, fun h => h ▸ opcodeOf_opcodeByte o⟩

/-! ## Lengths (30_encoding.md rules R110, R113) -/

/-- The length of a command that begins with an opcode byte of the map. -/
theorem commandLength_cons (o : Opcode) (bs : List Byte) :
    commandLength (opcodeByte o :: bs) =
      match opcodeFormat o with
      | .F0 => 1
      | .F1 => 2
      | .F2 => 3
      | .F5 => 6
      | .F7 => 8
      | .F9 => 10
      | .FL8 => 2 + (bs.getD 0 0).toNat
      | .FL16 => 3 + (fromBe16 (bs.getD 0 0) (bs.getD 1 0)).toNat := by
  simp only [commandLength, List.getD_cons_zero, opcodeOf_opcodeByte, List.getD_cons_succ] <;> rfl

/-- A command is at least one byte long. -/
theorem commandLength_pos (buf : List Byte) : 1 ≤ commandLength buf := by
  unfold commandLength
  split
  · exact Nat.le_refl 1
  · split <;> omega

/-- The empty buffer is not complete. -/
@[simp] theorem complete_nil : complete [] = false := rfl

/-- `complete` says that the length is the command's length. -/
theorem complete_iff {buf : List Byte} : complete buf = true ↔ buf.length = commandLength buf := by
  simp [complete]

end Sys2Proof
end

