-- ==== Sys2Proof/Laws/Flags.lean ====
section
/-! SUPPORT. The bits of STATUS (10_state.md rule R33; 45_control.md rules R321, R322). -/

namespace Sys2Proof.Machine

/-- A one-bit field is its bit at its place and 0 elsewhere. -/
theorem flagAt_getLsbD (b : Bool) (k i : Nat) (hk : k < 16) :
    (flagAt b k).getLsbD i = (decide (i = k) && b) := by
  unfold flagAt
  rw [BitVec.getLsbD_shiftLeft, BitVec.getLsbD_setWidth, BitVec.getLsbD_ofBool]
  by_cases h : i = k
  · subst h; simp [hk]
  · by_cases h1 : i < k
    · simp [h, h1]
    · have : i - k ≠ 0 := by omega
      simp [h, this]

/-- A two-bit field is its code at its place and 0 elsewhere. -/
theorem codeAt_getLsbD (c : Half) (k i : Nat) (hk : k + 2 ≤ 16) (hc : c.toNat < 4) :
    (c <<< k).getLsbD i = (decide (k ≤ i ∧ i < k + 2) && c.getLsbD (i - k)) := by
  rw [BitVec.getLsbD_shiftLeft]
  by_cases h1 : i < k
  · simp [h1, Nat.not_le.2 h1]
  · by_cases h2 : i < k + 2
    · simp [h1, h2, Nat.le_of_not_lt h1, show i < 16 by omega]
    · have h4 : c.toNat < 2 ^ (i - k) :=
        Nat.lt_of_lt_of_le hc
          (show 2 ^ 2 ≤ 2 ^ (i - k) from Nat.pow_le_pow_right (n := 2) (by omega) (by omega))
      have : c.getLsbD (i - k) = false := Nat.testBit_lt_two_pow h4
      simp [this]

theorem modeCode_lt (m : RadioMode) : (modeCode m).toNat < 4 := by cases m <;> decide

theorem pwrCode_lt (p : PwrState) : (pwrCode p).toNat < 4 := by cases p <;> decide

/-- Every bit of STATUS. -/
theorem statusWord_getLsbD (s : State) (i : Nat) :
    (statusWord s).getLsbD i =
      ((decide (i = 0) && s.configured) || (decide (i = 1) && s.rxPending)
        || (decide (i = 2) && s.sticky.transportFault) || (decide (i = 3) && s.sticky.txTimeoutSeen)
        || (decide (i = 4) && s.sticky.crcErrSeen) || (decide (i = 5) && s.sticky.overflowSeen)
        || (decide (i = 6) && s.extPowered) || (decide (i = 7) && s.graceDone)
        || (decide (8 ≤ i ∧ i < 10) && (modeCode s.radioMode).getLsbD (i - 8))
        || (decide (10 ≤ i ∧ i < 12) && (pwrCode s.pwrState).getLsbD (i - 10))
        || (decide (i = 12) && variantBit s.par.variant) || (decide (i = 13) && s.battSampled)) := by
  unfold statusWord
  simp only [BitVec.getLsbD_or]
  rw [flagAt_getLsbD _ 0 _ (by omega), flagAt_getLsbD _ 1 _ (by omega), flagAt_getLsbD _ 2 _ (by omega),
    flagAt_getLsbD _ 3 _ (by omega), flagAt_getLsbD _ 4 _ (by omega), flagAt_getLsbD _ 5 _ (by omega),
    flagAt_getLsbD _ 6 _ (by omega), flagAt_getLsbD _ 7 _ (by omega), flagAt_getLsbD _ 12 _ (by omega),
    flagAt_getLsbD _ 13 _ (by omega), codeAt_getLsbD _ 8 _ (by omega) (modeCode_lt _),
    codeAt_getLsbD _ 10 _ (by omega) (pwrCode_lt _)]

end Sys2Proof.Machine
end

