-- ==== Sys2Proof/Laws/PerInstr.lean ====
section
/-! SUPPORT. Lemmas for every instruction, one per constructor: the encoding of a well-formed command is a
complete command (30_encoding.md rules R110, R113). -/

namespace Sys2Proof.Laws.EncodingComplete

/-- The encoding of `i`, if `i` is well formed, is complete. -/
def Statement (i : Instr) : Prop := i.wellFormed = true → complete (encode i) = true

/-- A command whose format fixes its length is complete at that length. -/
theorem of_fixed {i : Instr} (h : (encode i).length = commandLength (encode i)) : Statement i :=
  fun _ => complete_iff.2 h

theorem nop : Statement .nop := of_fixed rfl
theorem statusRead : Statement .statusRead := of_fixed rfl
theorem statusClear (mask : Half) : Statement (.statusClear mask) := of_fixed rfl
theorem cntRead (idx : Byte) : Statement (.cntRead idx) := of_fixed rfl
theorem timeRead : Statement .timeRead := of_fixed rfl
theorem cfgRead (idx : Byte) : Statement (.cfgRead idx) := of_fixed rfl
theorem cfgWrite (idx : Byte) (val : Word) : Statement (.cfgWrite idx val) := of_fixed rfl

theorem crc16 (data : List Byte) : Statement (.crc16 data) := by
  intro h
  have hlen : data.length ≤ 65535 := by simpa [Instr.wellFormed] using h
  refine complete_iff.2 ?_
  have hl := commandLength_cons .crc16 (encodeOperands (.crc16 data))
  refine Eq.trans ?_ hl.symm
  have hv := fromBe16_ofNat_toNat hlen
  simp only [opcodeFormat]
  show (be16 _ ++ data).length + 1 = 3 + (fromBe16 _ _).toNat
  simp only [List.length_append, be16_length]
  have : (fromBe16 ((encodeOperands (.crc16 data)).getD 0 0) ((encodeOperands (.crc16 data)).getD 1 0)).toNat
      = data.length := hv
  omega

theorem pktBuild (nodeId : Byte) (timestamp : Word) (eventType batteryLevel : Byte) :
    Statement (.pktBuild nodeId timestamp eventType batteryLevel) := of_fixed rfl
theorem pktSerialize : Statement .pktSerialize := of_fixed rfl

theorem pktDeserialize (frame : List Byte) : Statement (.pktDeserialize frame) := by
  intro h
  have hlen : frame.length = 9 := by simpa [Instr.wellFormed] using h
  refine complete_iff.2 ?_
  show frame.length + 1 = 10
  omega

theorem pktValidate : Statement .pktValidate := of_fixed rfl
theorem radioInit : Statement .radioInit := of_fixed rfl

theorem radioTransmit (data : List Byte) : Statement (.radioTransmit data) := by
  intro h
  have hlen : data.length ≤ 255 := by simpa [Instr.wellFormed] using h
  refine complete_iff.2 ?_
  show (BitVec.ofNat 8 data.length :: data).length + 1 = 2 + (BitVec.ofNat 8 data.length).toNat
  simp only [List.length_cons, BitVec.toNat_ofNat]
  omega

theorem radioPoll : Statement .radioPoll := of_fixed rfl
theorem radioReceive (maxLen : Byte) : Statement (.radioReceive maxLen) := of_fixed rfl
theorem radioRssi : Statement .radioRssi := of_fixed rfl
theorem radioSleep : Statement .radioSleep := of_fixed rfl
theorem radioWake : Statement .radioWake := of_fixed rfl
theorem radioRxStart : Statement .radioRxStart := of_fixed rfl
theorem pwrNotify : Statement .pwrNotify := of_fixed rfl
theorem pwrTick (battery : Byte) : Statement (.pwrTick battery) := of_fixed rfl
theorem evqPush (eventType : Byte) : Statement (.evqPush eventType) := of_fixed rfl
theorem evqPop : Statement .evqPop := of_fixed rfl
theorem queueStatus : Statement .queueStatus := of_fixed rfl
theorem pipeBuild (battery : Byte) : Statement (.pipeBuild battery) := of_fixed rfl
theorem pipeSend : Statement .pipeSend := of_fixed rfl
theorem pipeRecv : Statement .pipeRecv := of_fixed rfl
theorem rxqPop : Statement .rxqPop := of_fixed rfl

end Sys2Proof.Laws.EncodingComplete
end

