-- ==== Sys2Proof/Laws/Writes.lean ====
section
/-! SUPPORT. What the lines of a command can write (10_state.md rule R32): an element that only one kind of
line writes changes only where such a line is run. -/

namespace Sys2Proof.Machine

/-! ## What a run writes -/

/-- What the lines `k` of a command can have written from `s` to `t`: an element that only one kind of line
writes has changed only if such a line stands in `k`. -/
def linesWrote (k : List Micro) (s t : State) : Prop :=
  (t.lastRssi = s.lastRssi ∨ ∃ m, .takeFrame m ∈ k) ∧
  (t.configured = s.configured ∨ .setConfigured ∈ k) ∧
  (t.pwrState = s.pwrState ∨ ∃ kind, .enterSleep kind ∈ k) ∧
  (t.rxq = s.rxq ∧ t.counters = s.counters ∧ t.sticky.crcErrSeen = s.sticky.crcErrSeen ∧
      t.sticky.overflowSeen = s.sticky.overflowSeen ∨ .deliver ∈ k) ∧
  t.sticky.txTimeoutSeen = s.sticky.txTimeoutSeen ∧ countersGrow s t ∧ stickyKept s t

/-- The same while the command goes on: the counters have not changed. -/
def linesWriting (k : List Micro) (s t : State) : Prop := linesWrote k s t ∧ t.counters = s.counters

theorem linesWriting_refl (k : List Micro) (s : State) : linesWriting k s s :=
  ⟨⟨.inl rfl, .inl rfl, .inl rfl, .inl ⟨rfl, rfl, rfl, rfl⟩, rfl,
    ⟨.inl rfl, .inl rfl, .inl rfl, .inl rfl⟩, id, id, id, id⟩, rfl⟩

/-- A transport fault sets TRANSPORT_FAULT only. -/
theorem linesWriting.faulted {k : List Micro} {s u : State} (h : linesWriting k s u) (r : Radio) (e : Env) :
    linesWriting k s (recordTransportFault { u with radio := r, env := e }) :=
  ⟨⟨h.1.1, h.1.2.1, h.1.2.2.1, h.1.2.2.2.1, h.1.2.2.2.2.1, h.1.2.2.2.2.2.1,
    fun _ => rfl, h.1.2.2.2.2.2.2.2⟩, h.2⟩

/-- A completed op writes none of these elements. -/
theorem linesWriting.performed {k : List Micro} {s u : State} (h : linesWriting k s u) (op : RadioOp)
    (r : Radio) (e : Env) : linesWriting k s (opCompleted op r e u) := by
  cases op <;> exact h

/-- The last line of PIPE_RECV. -/
theorem linesWriting.delivered {k : List Micro} {s u : State} (h : linesWriting k s u) (hk : .deliver ∈ k)
    (l : Locals) : linesWrote k s (deliverFrame l u) := by
  obtain ⟨⟨h1, h2, h3, -, h5, -, h7, h8, h9, h10⟩, hc⟩ := h
  rcases deliverFrame_cases l u with h' | ⟨-, h'⟩ | h' <;> rw [h']
  · exact ⟨h1, h2, h3, .inr hk, h5,
      ⟨.inr (by rw [← hc]; rfl), .inl (by rw [← hc]; rfl), .inl (by rw [← hc]; rfl),
        .inl (by rw [← hc]; rfl)⟩, h7, h8, fun _ => rfl, h10⟩
  · exact ⟨h1, h2, h3, .inr hk, h5,
      ⟨.inl (by rw [← hc]; rfl), .inl (by rw [← hc]; rfl), .inl (by rw [← hc]; rfl),
        .inl (by rw [← hc]; rfl)⟩, h7, h8, h9, h10⟩
  · exact ⟨h1, h2, h3, .inr hk, h5,
      ⟨.inl (by rw [← hc]; rfl), .inl (by rw [← hc]; rfl), .inl (by rw [← hc]; rfl),
        .inr (by rw [← hc]; rfl)⟩, h7, h8, h9, fun _ => rfl⟩

/-- One line of `k` writes what its kind may. -/
theorem stepMicro_writes {k : List Micro} {s u : State} (h : linesWriting k s u) (c : Instr)
    (k' : List Micro) (m : Micro) (hm : m ∈ k) (l : Locals) :
    progressTo (linesWriting k s) (linesWrote k s) (stepMicro c k' m l u) := by
  rcases stepMicro_cases c k' m l u with ⟨op, -, h'⟩ | h' | ⟨-, h'⟩ | ⟨rfl, h'⟩ | ⟨-, h'⟩ | ⟨-, h'⟩ |
    ⟨_, _, rfl, h'⟩ | ⟨_, -, h'⟩ | ⟨rfl, h'⟩ | ⟨_, rfl, h'⟩ <;> rw [h']
  · exact radioIssue_to (fun r e => h.performed op r e) (fun _ _ _ _ _ _ => h.1)
      (fun r e _ _ => h.faulted r e) (fun r e _ _ => (h.faulted r e).1)
  · exact h
  · exact h.1
  · exact ⟨⟨h.1.1, .inr hm, h.1.2.2⟩, h.2⟩
  · exact h.1
  · exact h.1
  · exact ⟨⟨.inr ⟨_, hm⟩, h.1.2⟩, h.2⟩
  · exact h.1
  · exact h.delivered hm l
  · exact ⟨h.1.1, h.1.2.1, .inr ⟨_, hm⟩, h.1.2.2.2⟩

/-- A run of the lines `k` writes what their kinds may. -/
theorem runLines_writes (c : Instr) (k : List Micro) (l : Locals) (s : State) :
    linesWrote k s (runLines c k l s) :=
  runLines_to (fun m k' l _ hk h => stepMicro_writes h c k' m (hk.subset List.mem_cons_self) l)
    (fun _ h => h.1) l s (linesWriting_refl k s)

/-- Lines of none of the four kinds write as any lines may. -/
theorem linesWrote.of_none {k k' : List Micro} {s t : State} (h : linesWrote k s t)
    (h1 : ∀ m, .takeFrame m ∉ k) (h2 : .setConfigured ∉ k) (h3 : ∀ kind, .enterSleep kind ∉ k)
    (h4 : .deliver ∉ k) : linesWrote k' s t :=
  ⟨.inl (h.1.resolve_right fun ⟨m, hm⟩ => h1 m hm), .inl (h.2.1.resolve_right h2),
    .inl (h.2.2.1.resolve_right fun ⟨kind, hk⟩ => h3 kind hk), .inl (h.2.2.2.1.resolve_right h4),
    h.2.2.2.2⟩

/-- In variant A a run leaves TRANSPORT_FAULT alone (42_transceiver.md rule R193). -/
theorem runLines_transportFault (c : Instr) (k : List Micro) (l : Locals) (s : State) :
    (runLines c k l s).sticky.transportFault = s.sticky.transportFault ∨ s.par.variant = .B := by
  cases hv : s.par.variant with
  | B => exact .inr rfl
  | A =>
    refine .inl (runLines_to
      (P := fun u => u.par.variant = .A ∧ u.sticky.transportFault = s.sticky.transportFault)
      (Q := fun u => u.sticky.transportFault = s.sticky.transportFault) ?_ (fun _ h => h.2) l s ⟨hv, rfl⟩)
    rintro m k' l u - ⟨hu, h⟩
    have inA : ∀ {p : Prop}, u.par.variant = .B → p := fun hb => by rw [hu] at hb; cases hb
    rcases stepMicro_cases c k' m l u with ⟨op, -, h'⟩ | h' | ⟨-, h'⟩ | ⟨-, h'⟩ | ⟨-, h'⟩ | ⟨-, h'⟩ |
      ⟨_, _, -, h'⟩ | ⟨_, -, h'⟩ | ⟨-, h'⟩ | ⟨_, -, h'⟩ <;> rw [h']
    · exact radioIssue_to (fun r e => by cases op <;> exact ⟨hu, h⟩) (fun _ _ _ hb _ _ => inA hb)
        (fun _ _ hb _ => inA hb) (fun _ _ hb _ => inA hb)
    · exact ⟨hu, h⟩
    · exact h
    · exact ⟨hu, h⟩
    · exact h
    · exact h
    · exact ⟨hu, h⟩
    · exact h
    · show (deliverFrame l u).sticky.transportFault = _
      rcases deliverFrame_cases l u with h' | ⟨-, h'⟩ | h' <;> rw [h'] <;> exact h
    · exact h

/-! ## What the end of a wait writes -/

/-- What evaluating a wait of a suspended command can write, unless it resets the block: the elements of
`outsideRun` only in a LightSleep wake, which stamps the activity time; the others as the lines still to run
may, but for the transmit timeout's TX_TIMEOUT_SEEN. -/
theorem resumeWait_writes (c : Instr) (k : List Micro) (l : Locals) (w : Wait) (s : State) :
    (∃ start, w = .sleep .deep start ∧ s.par.deepSleepMaxMs ≤ elapsedMs start s ∧
        resumeWait c k l w s = resetBlock s) ∨
      (∃ start, w = .sleep .light start ∧ resumeWait c k l w s = lightWake 0x03 s) ∨
      (∃ u, (u = s ∨ u = recordTxTimeout s) ∧ outsideRun (resumeWait c k l w s) = outsideRun s ∧
        linesWrote k u (resumeWait c k l w s)) := by
  have stays : resumeWait c k l w s = s → ∃ u, (u = s ∨ u = recordTxTimeout s) ∧
      outsideRun (resumeWait c k l w s) = outsideRun s ∧ linesWrote k u (resumeWait c k l w s) :=
    fun h => ⟨s, .inl rfl, by rw [h], by rw [h]; exact (linesWriting_refl k s).1⟩
  have runs : ∀ p, progressTo (fun u => outsideRun u = outsideRun s ∧ linesWriting k s u)
        (fun u => outsideRun u = outsideRun s ∧ linesWrote k s u) p →
      outsideRun (continueWith c k p) = outsideRun s ∧ linesWrote k s (continueWith c k p) := by
    intro p hp
    refine continueWith_to (P := fun u => outsideRun u = outsideRun s ∧ linesWriting k s u)
      (Q := fun u => outsideRun u = outsideRun s ∧ linesWrote k s u) ?_ (fun _ h => ⟨h.1, h.2.1⟩) p hp
    rintro m k' l u hk ⟨ho, hw⟩
    have h1 := outsideRun_stepMicro c k' m l u
    have h2 := stepMicro_writes hw c k' m (hk.subset List.mem_cons_self) l
    cases hp : stepMicro c k' m l u <;> rw [hp] at h1 h2 <;> exact ⟨Eq.trans h1 ho, h2⟩
  have start := linesWriting_refl k s
  have faulted : ∀ r e l', (e.sched = s.env.sched ∧ e.hostBytes = s.env.hostBytes ∧
        e.hostGot = s.env.hostGot) →
      progressTo (fun u => outsideRun u = outsideRun s ∧ linesWriting k s u)
        (fun u => outsideRun u = outsideRun s ∧ linesWrote k s u)
        (transportFault c l' { s with radio := r, env := e }) := fun r e l' he =>
    transportFault_to (fun _ => ⟨outsideRun_env he r, start.faulted r e⟩)
      (fun _ => ⟨outsideRun_env he r, (start.faulted r e).1⟩)
  rcases resumeWait_cases c k l w s with ⟨op, n, -, h⟩ | ⟨m, n, -, h⟩ | ⟨t, -, h | h | h⟩ |
    ⟨t, hw, h | h⟩ | ⟨t, hw, h | h⟩
  · rw [h]
    refine .inr (.inr ⟨s, .inl rfl, runs _ ?_⟩)
    obtain ⟨l', r, e, he, h' | ⟨-, h'⟩ | ⟨m, -, -, h'⟩ | h'⟩ := awaitReady_cases c k l op (n.toNat + 1) s <;>
      rw [h']
    · exact ⟨outsideRun_opCompleted he op r, start.performed op r e⟩
    · exact ⟨outsideRun_env he s.radio, start.1⟩
    · exact ⟨outsideRun_env he r, start.1⟩
    · exact faulted r e _ he
  · rw [h]
    refine .inr (.inr ⟨s, .inl rfl, runs _ ?_⟩)
    obtain ⟨e, he, h' | ⟨h', -⟩ | ⟨h', -⟩⟩ := awaitReadback_cases c k l m (n.toNat + 1) s <;> rw [h']
    · exact ⟨outsideRun_opCompleted he (.setMode m) s.radio, start.performed (.setMode m) s.radio e⟩
    · exact ⟨outsideRun_env he s.radio, start.1⟩
    · exact faulted s.radio e _ he
  · rw [h]
    exact .inr (.inr ⟨s, .inl rfl, outsideRun_runLines c k l s, runLines_writes c k l s⟩)
  · rw [h]
    have hb := runLines_writes c transmitTimeoutBody l (recordTxTimeout s)
    exact .inr (.inr ⟨_, .inr rfl, outsideRun_runLines c _ l (recordTxTimeout s), hb.of_none
      (by simp [transmitTimeoutBody]) (by simp [transmitTimeoutBody]) (by simp [transmitTimeoutBody])
      (by simp [transmitTimeoutBody])⟩)
  · exact .inr (.inr (stays h))
  · exact .inr (.inl ⟨t, hw, h⟩)
  · exact .inr (.inr (stays h))
  · by_cases hd : s.par.deepSleepMaxMs ≤ elapsedMs t s
    · exact .inl ⟨t, hw, hd, h⟩
    · exact .inr (.inr (stays (by rw [hw]; exact resumeWait_deep_stays c k l (Nat.not_le.1 hd))))
  · exact .inr (.inr (stays h))

end Sys2Proof.Machine
end

