-- ==== Sys2Proof/Tests/Slice0.lean ====
section
/-! SUPPORT. The model's own tests. The expected results are those of 95_test_vectors.md (V-...), of the rules,
or worked out by hand from them; and, for every statement with hypotheses, a state that meets them. -/

namespace Sys2Proof.Tests

open Sys2Proof.Machine

/-! ## Well-formedness: each check refuses an ill-formed term -/

/-- 30_encoding.md rule R110: 256 bytes do not fit `FL8`'s length byte. -/
theorem test_wf_radioTransmit_long : (Instr.radioTransmit (List.replicate 256 0)).wellFormed = false := by
  decide +kernel

theorem test_wf_radioTransmit_longest : (Instr.radioTransmit (List.replicate 255 0)).wellFormed = true := by
  decide +kernel

/-- 65536 bytes do not fit `FL16`'s length field. -/
theorem test_wf_crc16_long : (Instr.crc16 (List.replicate 65536 0)).wellFormed = false := by
  rw [Instr.wellFormed, List.length_replicate]
  decide

theorem test_wf_crc16_longest : (Instr.crc16 (List.replicate 65535 0)).wellFormed = true := by
  rw [Instr.wellFormed, List.length_replicate]
  decide

/-- `F9` carries 9 bytes, neither fewer nor more. -/
theorem test_wf_pktDeserialize : (Instr.pktDeserialize [0, 0, 0, 0, 0, 0, 0, 0]).wellFormed = false ∧
    (Instr.pktDeserialize [0, 0, 0, 0, 0, 0, 0, 0, 0, 0]).wellFormed = false ∧
    (Instr.pktDeserialize [0, 0, 0, 0, 0, 0, 0, 0, 0]).wellFormed = true := by
  decide

/-! ## Decoding: the bytes of each command, written out from 30_encoding.md rule R117 -/

theorem test_decode_nop : decode [0x00] = .ok (.nop, []) := rfl
theorem test_decode_statusRead : decode [0x01] = .ok (.statusRead, []) := rfl
theorem test_decode_statusClear : decode [0x02, 0x12, 0x3C] = .ok (.statusClear 0x123C, []) := rfl
theorem test_decode_cntRead : decode [0x03, 0x02] = .ok (.cntRead 0x02, []) := rfl
theorem test_decode_timeRead : decode [0x04] = .ok (.timeRead, []) := rfl
theorem test_decode_cfgRead : decode [0x05, 0x07] = .ok (.cfgRead 0x07, []) := rfl
theorem test_decode_cfgWrite :
    decode [0x06, 0x01, 0x33, 0xBE, 0x27, 0xA0] = .ok (.cfgWrite 0x01 868100000, []) := rfl
theorem test_decode_crc16 : decode [0x10, 0x00, 0x03, 0xAA, 0xBB, 0xCC, 0x99] =
    .ok (.crc16 [0xAA, 0xBB, 0xCC], [0x99]) := rfl
/-- The length field of `FL16` is big-endian: 0x0100 is 256. -/
theorem test_decode_crc16_length : commandLength [0x10, 0x01, 0x00] = 259 := by decide
theorem test_decode_pktBuild : decode [0x20, 0x2A, 0x01, 0x02, 0x03, 0x04, 0x03, 0x02] =
    .ok (.pktBuild 0x2A 0x01020304 0x03 0x02, []) := rfl
theorem test_decode_pktSerialize : decode [0x21] = .ok (.pktSerialize, []) := rfl
theorem test_decode_pktDeserialize : decode [0x22, 1, 2, 3, 4, 5, 6, 7, 8, 9] =
    .ok (.pktDeserialize [1, 2, 3, 4, 5, 6, 7, 8, 9], []) := rfl
theorem test_decode_pktValidate : decode [0x23] = .ok (.pktValidate, []) := rfl
theorem test_decode_radioInit : decode [0x30] = .ok (.radioInit, []) := rfl
theorem test_decode_radioTransmit : decode [0x31, 0x02, 0x01, 0x02] = .ok (.radioTransmit [1, 2], []) :=
  rfl
theorem test_decode_radioPoll : decode [0x32] = .ok (.radioPoll, []) := rfl
theorem test_decode_radioReceive : decode [0x33, 0x09] = .ok (.radioReceive 0x09, []) := rfl
theorem test_decode_radioRssi : decode [0x34] = .ok (.radioRssi, []) := rfl
theorem test_decode_radioSleep : decode [0x35] = .ok (.radioSleep, []) := rfl
theorem test_decode_radioWake : decode [0x36] = .ok (.radioWake, []) := rfl
theorem test_decode_radioRxStart : decode [0x37] = .ok (.radioRxStart, []) := rfl
theorem test_decode_pwrNotify : decode [0x40] = .ok (.pwrNotify, []) := rfl
theorem test_decode_pwrTick : decode [0x41, 0x50] = .ok (.pwrTick 80, []) := rfl
theorem test_decode_evqPush : decode [0x50, 0x02] = .ok (.evqPush 0x02, []) := rfl
theorem test_decode_evqPop : decode [0x51] = .ok (.evqPop, []) := rfl
theorem test_decode_queueStatus : decode [0x52] = .ok (.queueStatus, []) := rfl
theorem test_decode_pipeBuild : decode [0x53, 0x4D] = .ok (.pipeBuild 77, []) := rfl
theorem test_decode_pipeSend : decode [0x54] = .ok (.pipeSend, []) := rfl
theorem test_decode_pipeRecv : decode [0x55] = .ok (.pipeRecv, []) := rfl
theorem test_decode_rxqPop : decode [0x56] = .ok (.rxqPop, []) := rfl

/-- 30_encoding.md rule R118: the bytes beside the assigned ones are illegal. -/
theorem test_decode_illegal :
    [0x07, 0x0F, 0x11, 0x1F, 0x24, 0x2F, 0x38, 0x3F, 0x42, 0x4F, 0x57, 0xFF].all
      (fun b => (opcodeOf b).isNone) = true := rfl

theorem test_decode_illegal_error : decode [0x57, 0x00] = .error (.illegalOpcode 0x57) := rfl

theorem test_decode_incomplete : decode [0x20, 0x2A, 0x01] = .error .incomplete := rfl

/-! ## One command each -/

/-- The response after a step. -/
def respOf : Host.Outcome State Fault Refusal → Option (List Byte)
  | .next s => s.resp
  | _ => none

/-- The state after a step. -/
def stateOf (s : State) : Host.Outcome State Fault Refusal → State
  | .next t => t
  | _ => s

/-- The host writes the command `bytes` at an open port, the last byte in this step. -/
def write (bytes : List Byte) (s : State) : State := stateOf s (step (offerCommand bytes s))

/-- Reset in variant B. -/
def resetB : State := State.resetWith (Config.defaults .B Config.zeroCfg) Radio.initial Env.free

/-- Configured, in a radio mode. -/
def inMode (m : RadioMode) : State := { State.reset with configured := true, radioMode := m }

/-- The frame of the source's section 8. -/
def goodFrame : List Byte := [0x01, 0x00, 0x00, 0x30, 0x39, 0x01, 0x4D, 0x94, 0x2A]

/-- In receive, with a frame pending. -/
def receiving (frame : List Byte) (raw : Byte) : State :=
  { inMode .receivingContinuous with
    rxPending := true, radio := { Radio.initial with frame := frame, rawRssi := raw } }

/-- A node past its grace window on battery, as the vectors V-PWR-... start. -/
def onBattery (now lastActivity : Word) : State :=
  { State.reset with battSampled := true, graceDone := true, nowMs := now, lastActivityMs := lastActivity }

theorem test_nop : (write [0x00] State.reset).resp = some [0x00] := by decide

/-- V-RST-1. -/
theorem test_statusRead : (write [0x01] State.reset).resp = some [0x00, 0x00, 0x00] := by decide

/-- P3: CRC_ERR_SEEN cleared by the mask 0x003C. -/
theorem test_statusClear :
    (write [0x02, 0x00, 0x3C] { State.reset with sticky := ⟨false, true, true, false⟩ }).sticky =
      ⟨false, false, false, false⟩ := by decide

/-- P9: `02 00 08` clears bit 3 only. -/
theorem test_statusClear_bit3 :
    (write [0x02, 0x00, 0x08] { State.reset with sticky := ⟨true, true, true, true⟩ }).sticky =
      ⟨true, false, true, true⟩ := by decide

theorem test_cntRead :
    (write [0x03, 0x02] { State.reset with counters := ⟨1, 2, 3, 4⟩ }).resp = some [0x00, 0, 0, 0, 3] := by
  decide

/-- P10. -/
theorem test_cntRead_unmapped : (write [0x03, 0x04] State.reset).resp = some [0x02] := by decide

theorem test_timeRead :
    (write [0x04] { State.reset with nowMs := 12345 }).resp = some [0x00, 0x00, 0x00, 0x30, 0x39] := by decide

/-- V-RST-1: PAYLOAD_LEN. -/
theorem test_cfgRead : (write [0x05, 0x07] State.reset).resp = some [0x00, 0, 0, 0, 9] := by decide

/-- 10_state.md rule R50: SYNC_WORD keeps 16 bits. -/
theorem test_cfgWrite :
    (write [0x06, 0x05, 0xFF, 0xFF, 0x12, 0x34] State.reset).cfg = { Config.zeroCfg with syncWord := 0x1234 } := by
  decide

/-- P10. -/
theorem test_cfgWrite_readOnly : (write [0x06, 0x07, 0, 0, 0, 1] State.reset).resp = some [0x02] := by decide

/-- V-CRC-2. -/
theorem test_crc16 :
    (write [0x10, 0x00, 0x07, 0x01, 0x00, 0x00, 0x30, 0x39, 0x01, 0x4D] State.reset).resp =
      some [0x00, 0x94, 0x2A] := by decide +kernel

/-- V-CRC-1: the KERMIT, X-25 and AUG-CCITT parameter sets. -/
theorem test_crc16_parameters :
    let text : List Byte := [0x31, 0x32, 0x33, 0x34, 0x35, 0x36, 0x37, 0x38, 0x39]
    let p := Config.defaults .A Config.zeroCfg
    crc16 { p with crcInit := 0, crcRefIn := true, crcRefOut := true } text = 0x2189 ∧
      crc16 { p with crcRefIn := true, crcRefOut := true, crcXorOut := 0xFFFF } text = 0x906E ∧
      crc16 { p with crcInit := 0x1D0F } text = 0xE5CC := by decide +kernel

/-- V-COD-2. -/
theorem test_pktBuild :
    (write [0x20, 0x2A, 0x01, 0x02, 0x03, 0x04, 0x03, 0x02] State.reset).pkt =
      ⟨0x2A, 0x01020304, 0x03, 0x02, 0x5F58⟩ := by decide +kernel

/-- V-COD-2: field extremes. -/
theorem test_pktBuild_extremes :
    (write [0x20, 0xFF, 0xFF, 0xFF, 0xFF, 0xFF, 0x07, 0xFF] State.reset).pkt =
      ⟨0xFF, 0xFFFFFFFF, 0x07, 0xFF, 0x5908⟩ := by decide +kernel

theorem test_pktSerialize :
    (write [0x21] { State.reset with pkt := ⟨0x01, 12345, 0x01, 77, 0x942A⟩ }).resp =
      some (0x00 :: goodFrame) := by decide

theorem test_pktDeserialize :
    (write (0x22 :: goodFrame) State.reset).pkt = ⟨0x01, 12345, 0x01, 77, 0x942A⟩ := by decide

/-- P1. -/
theorem test_pktValidate :
    (write [0x23] { State.reset with pkt := ⟨0x01, 12345, 0x01, 77, 0x942A⟩ }).resp = some [0x00, 0x01] := by
  decide +kernel

/-- P1, and V-COD-4: a corrupt event type. -/
theorem test_pktValidate_corrupt :
    (write [0x23] { State.reset with pkt := ⟨0x01, 12345, 0xFE, 77, 0x942A⟩ }).resp = some [0x00, 0x00] := by
  decide +kernel

/-- V-TRX-1: the radio answers, and the trace of ops. -/
theorem test_radioInit :
    let t := write [0x30]
      { State.reset with cfg := ⟨1, 868100000, 7, 9, 5, 0x12, 14⟩, env := { Env.free with present := [true] } }
    t.resp = some [0x00] ∧ t.configured = true ∧ t.radioMode = .standby ∧
      t.radio.ops = [.probe, .setMode .standby, .configure [868100000, 7, 9, 5, 0x12, 14, 9]] := by decide

/-- V-TRX-1: the radio is absent. -/
theorem test_radioInit_absent :
    let t := write [0x30] { inMode .standby with env := { Env.free with present := [false] } }
    t.resp = some [0x07] ∧ t.configured = false ∧ t.radioMode = .standby := by decide

/-- V-TRX-6: a transmit from Sleep goes through Standby. -/
theorem test_radioTransmit :
    let t := write [0x31, 0x02, 0x01, 0x02] (inMode .sleep)
    t.resp = none ∧ t.radioMode = .transmitting ∧
      t.radio.ops = [.setMode .standby, .clearIrq, .writePayload [1, 2], .setMode .tx] := by decide

/-- V-TRX-2: the length is checked before configured. -/
theorem test_radioTransmit_refusals :
    (write [0x31, 0x00] State.reset).resp = some [0x02] ∧
      (write [0x31, 0x01, 0xAA] State.reset).resp = some [0x08] := by decide

theorem test_radioPoll : (write [0x32] (receiving [] 0)).resp = some [0x00, 0x01] := by decide

/-- V-TRX-10: truncation. -/
theorem test_radioReceive :
    let t := write [0x33, 0x04] (receiving [1, 2, 3, 4, 5, 6, 7, 8, 9, 10, 11, 12] 0x40)
    t.resp = some [0x00, 0x04, 1, 2, 3, 4] ∧ t.lastRssi = -93 ∧ t.rxPending = false ∧
      t.radio.ops = [.readFrame, .clearIrq, .setMode .rxCont] := by decide

/-- V-TRX-11 and V-TRX-9: an empty frame; no frame. -/
theorem test_radioReceive_empty :
    (write [0x33, 0x09] (receiving [] 0)).resp = some [0x00, 0x00] ∧
      (write [0x33, 0x09] (inMode .receivingContinuous)).resp = some [0x09] := by decide

/-- V-TRX-12: the RSSI map of both variants. -/
theorem test_rssi :
    rssiDbm (Config.defaults .A Config.zeroCfg) 0x50 = 0xFFB3 ∧
      rssiDbm (Config.defaults .B Config.zeroCfg) 0x01 = 0x0000 ∧
      rssiDbm (Config.defaults .B Config.zeroCfg) 0xFF = 0xFF81 := by decide

theorem test_radioRssi :
    (write [0x34] { State.reset with lastRssi := -77 }).resp = some [0x00, 0xFF, 0xB3] := by decide

theorem test_radioSleep :
    let t := write [0x35] (receiving [] 0)
    t.resp = some [0x00] ∧ t.radioMode = .sleep ∧ t.rxPending = false := by decide

/-- V-TRX-8. -/
theorem test_radioWake :
    (write [0x36] (inMode .sleep)).radioMode = .standby ∧
      (write [0x36] (inMode .standby)).radioMode = .receivingContinuous ∧
      (write [0x36] (inMode .receivingContinuous)).radio.ops = [] := by decide

/-- V-TRX-2: RADIO_WAKE and RADIO_RX_START of an unconfigured radio. -/
theorem test_radioWake_unconfigured :
    (write [0x36] { State.reset with radioMode := .standby }).resp = some [0x08] ∧
      (write [0x37] State.reset).resp = some [0x08] := by decide

theorem test_radioRxStart :
    (write [0x37] (inMode .sleep)).radio.ops = [.setMode .standby, .clearIrq, .setMode .rxCont] := by decide

/-- V-PWR-6. -/
theorem test_pwrNotify :
    (write [0x40] { State.reset with nowMs := 4242 }).lastActivityMs = 4242 := by decide

/-- V-PWR-1: the boundaries of the decision. -/
theorem test_pwrTick_answers :
    (write [0x41, 0x00] State.reset).resp = some [0x00, 0x00] ∧
      (write [0x41, 0x05] (onBattery 20000 15000)).resp = some [0x00, 0x01] ∧
      (write [0x41, 0x00] (onBattery 20000 15000)).resp = some [0x00, 0x01] ∧
      (write [0x41, 0x50] (onBattery 40000 10001)).resp = some [0x00, 0x01] := by decide

/-- V-PWR-1: DeepSleep below the critical threshold, LightSleep at the idle timeout. -/
theorem test_pwrTick_sleeps :
    (write [0x41, 0x04] (onBattery 20000 15000)).pwrState = .deepSleep ∧
      (write [0x41, 0x50] (onBattery 40001 10001)).pwrState = .lightSleep ∧
      (write [0x41, 0x50] (onBattery 40001 10001)).resp = none := by decide

/-- P8. -/
theorem test_evqPush_full :
    let t := write [0x50, 0x03] { State.reset with evq := List.replicate 10 0x02 }
    t.resp = some [0x04] ∧ t.evq = List.replicate 10 0x02 ∧ t.counters = ⟨0, 1, 0, 0⟩ ∧
      t.sticky = ⟨false, false, false, true⟩ := by decide

theorem test_evqPop :
    let t := write [0x51] { State.reset with evq := [0x01, 0x02] }
    t.resp = some [0x00, 0x01] ∧ t.evq = [0x02] := by decide

theorem test_queueStatus :
    (write [0x52] { State.reset with evq := [1, 2], txq := [⟨0, 0, 0, 0, 0⟩] }).resp =
      some [0x00, 0x02, 0x01, 0x00] := by decide

/-- V-FIFO-5. -/
theorem test_pipeBuild :
    let t := write [0x53, 0x04]
      { State.reset with cfg := { Config.zeroCfg with nodeId := 1 }, nowMs := 0xFFFFFFFF, evq := [0x03] }
    t.resp = some [0x00] ∧ t.txq = [⟨1, 0xFFFFFFFF, 3, 4, 0xD6A8⟩] ∧ t.evq = [] ∧
      t.lastActivityMs = 0xFFFFFFFF := by decide +kernel

/-- P2. -/
theorem test_pipeSend :
    let t := write [0x54] { inMode .standby with txq := [⟨0x01, 12345, 0x01, 77, 0x942A⟩] }
    t.txq = [] ∧ t.radio.ops = [.clearIrq, .writePayload goodFrame, .setMode .tx] := by decide

/-- V-FIFO-6: a good frame. -/
theorem test_pipeRecv :
    let t := write [0x55] (receiving goodFrame 0x50)
    t.resp = some [0x00] ∧ t.rxq = [⟨0x01, 12345, 0x01, 77, 0x942A⟩] ∧ t.lastRssi = -77 := by decide +kernel

/-- V-FIFO-6: a short frame, a corrupt one, and one of 10 bytes. -/
theorem test_pipeRecv_integrity :
    (write [0x55] (receiving [1, 2, 3] 0)).resp = some [0x0A] ∧
      (write [0x55] (receiving [0x01, 0x00, 0x00, 0x30, 0x39, 0xFE, 0x4D, 0x94, 0x2A] 0x60)).counters =
        ⟨1, 0, 0, 0⟩ ∧
      (write [0x55] (receiving (goodFrame ++ [0]) 0)).sticky = ⟨false, false, true, false⟩ := by
  decide +kernel

theorem test_rxqPop :
    let t := write [0x56] { State.reset with rxq := [⟨0x01, 12345, 0x01, 77, 0x942A⟩] }
    t.resp = some (0x00 :: goodFrame) ∧ t.rxq = [] := by decide

/-! ## Agent steps and waits -/

/-- P7: the second trigger comes 150 ms after the first, the third 200 ms after it. -/
theorem test_trigger_debounce :
    let s : State := { State.reset with nowMs := 250, lastAcceptMs := 100, anyAccepted := true, evq := [1] }
    (triggerStep s).evq = [1] ∧ (triggerStep { s with nowMs := 300 }).evq = [1, 1] := by decide

/-- V-TRX-5: the done-flag and the timeout at one tick: the done-flag wins. -/
theorem test_done_flag_wins :
    let s := write [0x31, 0x01, 0xAA] (inMode .standby)
    let t := tickStep { s with nowMs := 4999, radio := { s.radio with irqTxDone := true } }
    t.resp = some [0x00] ∧ t.sticky.txTimeoutSeen = false ∧ t.radioMode = .standby := by decide

/-- V-TRX-13: the last of the busy samples ends RADIO_SLEEP with E_TRANSPORT. -/
theorem test_transport_fault :
    let s : State := { resetB with
      configured := true, radioMode := .standby, env := { Env.free with busy := [true] },
      phase := .running .radioSleep [.respondOk] noLocals (.ready (.setMode .sleep) 99) }
    let t := tickStep s
    t.resp = some [0x06] ∧ t.sticky = ⟨true, false, false, false⟩ ∧ t.radioMode = .standby ∧
      statusWord t = 0x1105 := by decide

/-- Logs 11 and 12: in variant B a transport fault after a transmit leaves Transmitting with the port Idle
(42_transceiver.md rule R197). -/
theorem test_transmitting_while_idle :
    let s : State := { resetB with
      configured := true, radioMode := .transmitting, env := { Env.free with busy := [true] },
      phase := .running (.radioTransmit [0xAA]) [.radio (.setMode .standby), .respondOk] noLocals
        (.ready .clearIrq 99) }
    (tickStep s).phase = .idle ∧ (tickStep s).radioMode = .transmitting := by decide

/-- Log 16: a table word placed at the port runs as the next step from reset. -/
theorem test_withFetchWord :
    respOf (step (State.reset.withFetchWord 8 0x41)) = some [0x00, 0x00] ∧
      decodeTableWord 8 0x41 = some (.pwrTick 0) ∧ decodeTableWord 8 0x57 = none := by decide

/-! ## Witnesses: for each statement with hypotheses, a case that meets them -/

/-- Reset with agent steps to come. -/
def scheduled (sched : List AgentStep) (s : State) : State := { s with env := { s.env with sched := sched } }

theorem witness_DecodeOfEncode : (Instr.radioTransmit (List.replicate 255 0xFF)).wellFormed = true ∧
    (Instr.pktDeserialize goodFrame).wellFormed = true ∧ (Instr.radioTransmit []).wellFormed = true := by
  decide +kernel

theorem witness_EncodeOfDecode : decode [0x31, 0x01, 0xAA, 0x00] = .ok (.radioTransmit [0xAA], [0x00]) := rfl

theorem witness_CompleteExactlyAtEncoding :
    (Instr.crc16 [0xAB]).wellFormed = true ∧ 3 < (encode (.crc16 [0xAB])).length := by decide

theorem witness_CompleteBufferIsOneCommand :
    complete [0x31, 0x01, 0xAA] = true ∧ complete [0xFF] = true ∧ complete [0x31, 0x00] = true := by decide

/-- The last byte of CFG_WRITE, and the one byte of NOP. -/
theorem witness_StepRunsDecodedCommand :
    let s : State := { State.reset with
      cmdBuf := [0x06, 0x05, 0x00, 0x00, 0x12],
      env := { Env.free with sched := [.hostWrite], hostBytes := [0x34] } }
    s.phase = .idle ∧ s.resp = none ∧ s.env.sched = .hostWrite :: [] ∧ s.env.hostBytes = 0x34 :: [] ∧
      decode (s.cmdBuf ++ [0x34]) = .ok (.cfgWrite 0x05 0x00001234, []) :=
  ⟨rfl, rfl, rfl, rfl, rfl⟩

/-- Both sides of the ranges, and an illegal byte where an opcode is due. -/
theorem witness_IllegalOpcodeAnswered :
    (opcodeOf 0x57 = none ∧ opcodeOf 0x07 = none ∧ opcodeOf 0x10 = some .crc16 ∧ opcodeOf 0x56 = some .rxqPop) ∧
    let s : State := { State.reset with env := { Env.free with sched := [.hostWrite], hostBytes := [0xFF] } }
    s.phase = .idle ∧ s.resp = none ∧ s.cmdBuf = [] ∧ s.env.sched = .hostWrite :: [] ∧
      s.env.hostBytes = 0xFF :: [] ∧ opcodeOf 0xFF = none := by decide

/-- A running command, and an unread response. -/
theorem witness_ClosedPortTakesNoByte :
    let s := scheduled [.hostWrite] { State.reset with resp := some [0x00] }
    let u := scheduled [.hostWrite]
      { State.reset with phase := .running (.pwrTick 80) [] noLocals (.sleep .light 0) }
    (s.env.sched = .hostWrite :: [] ∧ s.resp ≠ none) ∧ u.env.sched = .hostWrite :: [] ∧ u.phase ≠ .idle := by
  decide

theorem witness_PartialCommandWaits :
    let s : State := { State.reset with
      cmdBuf := [0x31], env := { Env.free with sched := [.hostWrite], hostBytes := [0x01, 0xAA] } }
    s.phase = .idle ∧ s.resp = none ∧ s.env.sched = .hostWrite :: [] ∧ s.env.hostBytes = 0x01 :: [0xAA] ∧
      complete (s.cmdBuf ++ [0x01]) = false := by decide

/-- A state for each clause: the host's read, RxDone in receive and elsewhere, TxDone in the transmit wait, in
another wait and while idle, and the reset input. -/
theorem witness_HostReadRadioEventsReset :
    let waiting (w : Wait) := scheduled [.txDone] { State.reset with phase := .running .pipeSend [] noLocals w }
    (scheduled [.hostRead] { State.reset with resp := some [0x00] }).resp = some [0x00] ∧
      (scheduled [.rxDone (List.replicate 255 7) 9] (inMode .receivingContinuous)).radioMode =
        .receivingContinuous ∧
      (scheduled [.rxDone [] 9] (inMode .standby)).env.sched = .rxDone [] 9 :: [] ∧
      (List.replicate 255 (7 : Byte)).length ≤ 255 ∧
      (waiting (.tx 0)).phase = .running .pipeSend [] noLocals (.tx 0) ∧
      (waiting (.ready .clearIrq 1)).phase = .running .pipeSend [] noLocals (.ready .clearIrq 1) ∧
      (scheduled [.txDone] State.reset).phase = .idle ∧
      (scheduled [.powerOnReset] State.reset).env.sched = .powerOnReset :: [] := by decide +kernel

/-- The tick that closes the grace window. -/
theorem witness_IdleTickAdvancesTimeAndGrace :
    let s := scheduled [.tick] { State.reset with nowMs := 9999 }
    s.env.sched = .tick :: [] ∧ s.phase = .idle ∧ s.graceDone = false ∧
      s.par.bootGraceMs ≤ (s.nowMs + 1).toNat := by decide

/-- The first trigger, one at the end of the window, one inside it, and one that finds the FIFO full. -/
theorem witness_TriggerDebouncedAndPushed :
    let s (now : Word) (any : Bool) (q : List Byte) := scheduled [.trigger]
      { State.reset with nowMs := now, lastAcceptMs := 100, anyAccepted := any, evq := q }
    (s 0 false []).env.sched = .trigger :: [] ∧ sleepingIn (s 0 false []).phase = none ∧
      triggerAccepted (s 0 false []) = true ∧ triggerAccepted (s 300 true []) = true ∧
      triggerAccepted (s 299 true []) = false ∧
      ¬(s 300 true (List.replicate 10 1)).evq.length < (s 300 true (List.replicate 10 1)).par.evqCap := by
  decide

theorem witness_SecondTriggerInWindowRejected :
    State.reset.phase = .idle ∧ triggerAccepted State.reset = true ∧ 199 < State.reset.par.debounceMs ∧
      199 < 2 ^ 32 := by decide

/-- One state for each kind of step. -/
theorem witness_RadioOpsOnlyFromSequencer :
    (∃ t, step (scheduled [.trigger] State.reset) = .next t) ∧
      (∃ t, step (scheduled [.tick] State.reset) = .next t) ∧
      (AgentStep.tick ≠ .hostWrite ∧ State.reset.phase = .idle) :=
  ⟨⟨_, rfl⟩, ⟨_, rfl⟩, by decide⟩

theorem witness_Crc16Affine :
    ([0x01, 0x02] : List Byte).length = ([0xFF, 0x00] : List Byte).length ∧
      ([0xFF, 0x00] : List Byte).length = ([0x10, 0x20] : List Byte).length := by decide

theorem witness_Crc16SingleBitFlip :
    (Config.defaults .B Config.zeroCfg).crcPoly = 0x1021 ∧ 7 < 8 ∧
      ({ Config.defaults .A Config.zeroCfg with crcRefIn := true }).crcPoly = 0x1021 := by decide

theorem witness_CodecRoundTrip : goodFrame.length = 9 := by decide

/-- Both ends of each range of indices. -/
theorem witness_IndexReadResults :
    3 < (4 : Byte).toNat ∧ 3 < (255 : Byte).toNat ∧ 7 < (8 : Byte).toNat ∧ 7 < (255 : Byte).toNat := by decide

theorem witness_CfgWriteThenRead :
    (0 : Byte).toNat < 7 ∧ (6 : Byte).toNat < 7 ∧ 7 ≤ (7 : Byte).toNat ∧ 7 ≤ (255 : Byte).toNat ∧
      (0xFF : Byte) ≠ 6 := by decide

theorem witness_StatusReadsNoTransientMode :
    State.reset.phase = .idle ∧ powerMatchesPhase State.reset ∧ State.reset.par.variant = .A ∧
      variantAModes State.reset := ⟨rfl, rfl, rfl, fun _ h => RadioMode.noConfusion h⟩

theorem witness_ReadCommandsIdempotent :
    Instr.pktValidate ∈ [Instr.statusRead, .timeRead, .radioPoll, .radioRssi, .queueStatus, .pktSerialize,
      .pktValidate] ∧ ∃ x, Instr.cntRead 3 = .cntRead x := ⟨by decide, _, rfl⟩

/-- The state after reset meets every premise but those of a configured radio, which the second state meets. -/
theorem witness_RefusalsChangeNothing :
    (State.reset.rxPending = false ∧ State.reset.configured = false ∧ (9 : Byte) ≠ 0) ∧
      ((inMode .standby).configured = true ∧ (inMode .standby).txq = []) ∧
      ({ State.reset with radioMode := .standby }).radioMode = .standby := by decide

theorem witness_FifoCommandResults :
    let p : Packet := ⟨1, 2, 3, 4, 5⟩
    let s : State := { State.reset with evq := [0x07], rxq := [p] }
    s.evq = 0x07 :: [] ∧ s.rxq = p :: [] ∧ State.reset.evq = [] ∧ State.reset.rxq = [] := by decide

/-- No event; a transmit FIFO with room, and a full one. -/
theorem witness_PipeBuildResult :
    let p : Packet := ⟨1, 2, 3, 4, 5⟩
    let s : State := { State.reset with evq := [0x01, 0x02], txq := List.replicate 4 p }
    State.reset.evq = [] ∧ s.evq = 0x01 :: [0x02] ∧ s.txq.length < s.par.txqCap ∧
      ¬(List.replicate 5 p).length < s.par.txqCap := by
  decide

theorem witness_PipeRecvResult :
    (receiving goodFrame 0x50).par.variant = .A ∧ (receiving goodFrame 0x50).rxPending = true ∧
      (receiving goodFrame 0x50).radio.frame.length = 9 := by decide

/-- A full event FIFO, and a trigger. -/
theorem witness_FifosStayBounded :
    let s := scheduled [.trigger] { State.reset with evq := List.replicate 10 1 }
    fifosBounded s ∧ ∃ t, step s = .next t := ⟨⟨by decide, by decide, by decide⟩, _, rfl⟩

theorem witness_RadioInitResult :
    let s (p : Bool) : State := { State.reset with env := { Env.free with present := [p] } }
    (s true).par.variant = .A ∧ (s true).env.present = true :: [] ∧ (s false).env.present = false :: [] := by
  decide

/-- RADIO_INIT suspended in variant B before its Configure. -/
def initSuspended : State := { resetB with
  phase := .running .radioInit [.setConfigured, .respondOk] noLocals (.ready (.configure []) 3),
  env := { Env.free with busy := [false], present := [true] } }

theorem witness_InitConfiguredExactlyIfOk :
    (State.reset.resp = none ∧ ∃ t, exec .radioInit State.reset = .next t) ∧
      initPending initSuspended ∧ (tickStep initSuspended).configured = true := by
  refine ⟨⟨rfl, _, rfl⟩, ?_, by decide⟩
  intro k l w h
  cases h
  exact ⟨rfl, rfl, by decide, .inl ⟨_, _, rfl⟩⟩

theorem witness_TransmitStarts :
    let p : Packet := ⟨1, 12345, 1, 77, 0x942A⟩
    let s : State := { inMode .receivingContinuous with txq := [p] }
    s.par.variant = .A ∧ s.configured = true ∧ s.txq = p :: [] ∧ ([0xAA] : List Byte) ≠ [] := by decide

/-- The transmit wait of variant A. -/
def transmitting (done : Bool) : State := { inMode .transmitting with
  phase := .running (.radioTransmit [0xAA]) transmitDoneBody { noLocals with data := [0xAA] } (.tx 0),
  radio := { Radio.initial with irqTxDone := done }, env := { Env.free with sched := [.tick] } }

theorem witness_DoneFlagEndsTransmit :
    (transmitting true).par.variant = .A ∧ (transmitting true).env.sched = .tick :: [] ∧
      (transmitting true).radio.irqTxDone = true ∧
      (transmitting true).phase = .running (.radioTransmit [0xAA])
        [.radio .clearIrq, .radio (.setMode .standby), .respondOk] ⟨[0xAA], false, [], 0, 0⟩ (.tx 0) := by
  decide

/-- The transmit wait of variant B, with `busy` the samples to come. -/
def transmittingB (done : Bool) (busy : List Bool) : State := { transmitting done with
  par := resetB.par, env := { Env.free with sched := [.tick], busy := busy } }

/-- Both variants; in variant B a recovery that finds every sample busy. -/
theorem witness_TransmitTimeoutExact :
    let s := transmitting false
    let u := transmittingB false (List.replicate 100 true ++ [])
    (s.par.variant = .A ∧ s.radio.irqTxDone = false ∧
      s.phase = .running (.radioTransmit [0xAA]) transmitDoneBody { noLocals with data := [0xAA] } (.tx s.nowMs) ∧
      1 ≤ s.par.txTimeoutMs ∧ s.par.txTimeoutMs < 2 ^ 32 ∧ 4999 < s.par.txTimeoutMs) ∧
    (u.par.variant = .B ∧ u.radio.irqTxDone = false ∧
      u.phase = .running (.radioTransmit [0xAA]) transmitDoneBody { noLocals with data := [0xAA] } (.tx u.nowMs) ∧
      1 ≤ u.par.txTimeoutMs ∧ u.par.txTimeoutMs < 2 ^ 32 ∧
      (∀ b, Instr.radioTransmit [0xAA] ≠ .pwrTick b) ∧ 1 ≤ u.par.busyRetryMax ∧ u.par.busyRetryMax ≤ 256 ∧
      u.env.busy = List.replicate u.par.busyRetryMax true ++ []) :=
  ⟨by decide, by decide, by decide, by decide, by decide, by decide, fun _ => Instr.noConfusion, by decide,
    by decide, by decide⟩

theorem witness_RadioReceiveResult :
    (receiving goodFrame 0x50).par.variant = .A ∧ (4 : Byte) ≠ 0 ∧
      (receiving goodFrame 0x50).rxPending = true := by decide

/-- One state for each clause. -/
theorem witness_RadioModeCommandResults :
    State.reset.par.variant = .A ∧ State.reset.radioMode = .sleep ∧
      ((inMode .standby).radioMode = .standby ∧ (inMode .standby).configured = true) ∧
      (inMode .receivingContinuous).radioMode = .receivingContinuous ∧
      (inMode .transmitting).radioMode = .transmitting ∧ (inMode .sleep).configured = true := by decide

theorem witness_RssiMapValue : (Config.defaults .B Config.zeroCfg).rssiDiv ≠ 0 := by decide

/-- Variant B, with `busy` the samples to come. -/
def busyB (busy : List Bool) : State := { resetB with env := { Env.free with busy := busy } }

/-- RADIO_SLEEP: each wait with all samples busy, and with no busy sample or all but one of the ceiling's. Every
command that issues an op, in the first op's wait. A suspended one, at the ceiling of each wait. -/
theorem witness_ReadyWaitProceedsOrFaults :
    let s := busyB (List.replicate 100 true ++ [])
    let waits (j r : Nat) := busyB (List.replicate j true ++ false :: (List.replicate r true ++ false :: []))
    let u := busyB (List.replicate 99 true ++ false :: (List.replicate 100 true ++ []))
    let v : State := { s with
      configured := true, radioMode := .standby, rxPending := true, txq := [⟨1, 2, 3, 4, 5⟩] }
    let at99 (w : Wait) : State := scheduled [.tick] { busyB [true] with
      phase := .running (.radioReceive 9) [.takeFrame 9] noLocals w }
    (s.par.variant = .B ∧ 1 ≤ s.par.busyRetryMax ∧ s.par.busyRetryMax ≤ 256 ∧
      s.env.busy = List.replicate s.par.busyRetryMax true ++ [] ∧ 0 < s.par.busyRetryMax ∧
      99 < s.par.busyRetryMax) ∧
    ((waits 0 0).env.busy = List.replicate 0 true ++ false :: (List.replicate 0 true ++ false :: []) ∧
      (waits 99 99).env.busy = List.replicate 99 true ++ false :: (List.replicate 99 true ++ false :: []) ∧
      u.env.busy = List.replicate 99 true ++ false :: (List.replicate u.par.busyRetryMax true ++ [])) ∧
    (issuesOp .radioInit v ∧ issuesOp (.radioTransmit [0xAA]) v ∧ issuesOp (.radioReceive 9) v ∧
      issuesOp .radioSleep v ∧ issuesOp .radioWake v ∧ issuesOp .radioRxStart v ∧ issuesOp .pipeSend v ∧
      issuesOp .pipeRecv v ∧ issuesOp .radioWake { v with radioMode := .sleep }) ∧
    (v.par.variant = .B ∧ v.env.busy = List.replicate v.par.busyRetryMax true ++ []) ∧
    ∀ w, w = .ready .readFrame 99 ∨ w = .readback .rxCont 99 →
      (at99 w).env.sched = .tick :: [] ∧
        (at99 w).phase = .running (.radioReceive 9) [.takeFrame 9] noLocals w ∧
        (∀ b, Instr.radioReceive 9 ≠ .pwrTick b) ∧ (99 : Byte).toNat + 1 = (at99 w).par.busyRetryMax ∧
        (at99 w).env.busy = true :: [] := by
  refine ⟨by decide +kernel, by decide +kernel, ?_, by decide +kernel, ?_⟩
  · exact ⟨trivial, ⟨by decide, rfl⟩, ⟨by decide, rfl⟩, trivial, .inr ⟨rfl, rfl⟩, ⟨rfl, by decide⟩,
      ⟨rfl, by decide⟩, rfl, .inl rfl⟩
  · exact fun w _ => ⟨rfl, rfl, (fun _ => Instr.noConfusion), rfl, rfl⟩

/-- 42_transceiver.md rule R197: a transport fault at the re-arm of RADIO_RECEIVE keeps `last_rssi`. -/
theorem test_transport_fault_keeps_rssi :
    let s : State := { busyB [true] with
      lastRssi := -93, radioMode := .receivingContinuous,
      phase := .running (.radioReceive 9) [.radio (.setMode .rxCont), .respondFrame] noLocals
        (.ready .clearIrq 99) }
    let t := tickStep s
    t.resp = some [0x06] ∧ t.lastRssi = -93 ∧ t.radioMode = .receivingContinuous ∧ t.radio.ops = [] := by
  decide

/-- A command begun at an Idle port, and a tick of the transmit wait. -/
theorem witness_ReadyVariantBActsAsA :
    let s := busyB (List.replicate 16 false)
    let u := transmittingB true (List.replicate 16 false)
    (s.par.variant = .B ∧ 16 ≤ s.env.busy.length ∧ (∀ b, b ∈ s.env.busy → b = false) ∧
      ∃ t, exec .radioSleep s = .next t) ∧
    (u.par.variant = .B ∧ 16 ≤ u.env.busy.length ∧ (∀ b, b ∈ u.env.busy → b = false) ∧
      (∀ c k l op n, u.phase ≠ .running c k l (.ready op n)) ∧
      (∀ c k l m n, u.phase ≠ .running c k l (.readback m n)) ∧ (linesToRun u.phase).length = 3) :=
  ⟨⟨by decide, by decide, by decide, _, rfl⟩, by decide, by decide, by decide,
    (fun _ _ _ _ _ h => nomatch h), (fun _ _ _ _ _ h => nomatch h), by decide⟩

theorem witness_PendingStaysOnlyInReceive :
    let s := scheduled [.tick] (receiving goodFrame 0)
    pendingOnlyInReceive s ∧ s.rxPending = true ∧ ∃ t, step s = .next t := ⟨fun _ => rfl, rfl, _, rfl⟩

theorem witness_VariantAModesKept : variantAModes (transmitting true) ∧ ∃ t, step (transmitting true) = .next t :=
  ⟨fun _ => ⟨rfl, rfl⟩, _, rfl⟩

/-- A busy wait one sample below the ceiling. -/
theorem witness_BusySamplesStayBounded :
    let s : State := scheduled [.tick] { busyB [true] with
      phase := .running .radioSleep [.respondOk] noLocals (.ready (.setMode .sleep) 99) }
    s.par.wf = true ∧ busySamplesBounded s ∧ ∃ t, step s = .next t :=
  ⟨by decide, ⟨by decide, by decide, by decide⟩, _, rfl⟩

/-- The first sample of zero; then one state for each outcome. -/
theorem witness_PwrTickDecision :
    State.reset.par.variant = .A ∧ State.reset.graceDone = false ∧
      ((onBattery 20000 15000).graceDone = true ∧ (onBattery 20000 15000).extPowered = false) ∧
      (4 : Byte).toNat < State.reset.par.critPct ∧ ¬(5 : Byte).toNat < State.reset.par.critPct ∧
      State.reset.par.idleTimeoutMs ≤ ((onBattery 40001 10001).nowMs - 10001).toNat := by decide

/-- The sleep wait of a kind, entered now. -/
def asleep (kind : SleepKind) : State := { onBattery 40000 0 with
  phase := .running (.pwrTick 80) [] noLocals (.sleep kind 40000), pwrState := sleepState kind,
  env := { Env.free with sched := [.trigger] } }

theorem witness_LightSleepEndsOnTimer :
    (asleep .light).phase = .running (.pwrTick 80) [] noLocals (.sleep .light (asleep .light).nowMs) ∧
      1 ≤ (asleep .light).par.lightSleepMaxMs ∧ (asleep .light).par.lightSleepMaxMs < 2 ^ 32 ∧
      59999 < (asleep .light).par.lightSleepMaxMs := by decide

theorem witness_DeepSleepEndsInReset :
    (asleep .deep).phase = .running (.pwrTick 80) [] noLocals (.sleep .deep (asleep .deep).nowMs) ∧
      1 ≤ (asleep .deep).par.deepSleepMaxMs ∧ (asleep .deep).par.deepSleepMaxMs < 2 ^ 32 ∧
      3599999 < (asleep .deep).par.deepSleepMaxMs := by decide

/-- In DeepSleep; and in LightSleep a trigger accepted with room, one accepted with the FIFO full, and one
rejected. -/
theorem witness_TriggersWake :
    let s := asleep .light
    let full : State := { s with evq := List.replicate 10 1 }
    let early : State := { s with anyAccepted := true, lastAcceptMs := 39801 }
    ((asleep .deep).env.sched = .trigger :: [] ∧
      (asleep .deep).phase = .running (.pwrTick 80) [] noLocals (.sleep .deep 40000)) ∧
    (s.env.sched = .trigger :: [] ∧ s.phase = .running (.pwrTick 80) [] noLocals (.sleep .light 40000) ∧
      triggerAccepted s = true ∧ s.evq.length < s.par.evqCap) ∧
    (full.env.sched = .trigger :: [] ∧ full.phase = s.phase ∧ triggerAccepted full = true ∧
      ¬full.evq.length < full.par.evqCap) ∧
    (early.env.sched = .trigger :: [] ∧ early.phase = s.phase ∧ triggerAccepted early = false) := by
  decide

/-- A rejected trigger still wakes LightSleep (43_power.md rule R256; 44_fifo_pipeline.md rule
R283). -/
theorem test_rejected_trigger_wakes :
    let t := triggerStep { asleep .light with anyAccepted := true, lastAcceptMs := 39801 }
    t.resp = some [0x00, 0x02] ∧ t.pwrState = .active ∧ t.evq = [] ∧ t.lastAcceptMs = 39801 := by decide

/-- Both sleeps, the battery sampled before and by this PWR_TICK; a fault in the ready wait, and one in the
read-back wait at either end of its range. -/
theorem witness_SleepEntrySurvivesTransportFault :
    let s (busy : List Bool) (sampled : Bool) : State := { busyB busy with
      battSampled := sampled, graceDone := true, nowMs := 40000 }
    let u := s (List.replicate 100 true ++ []) true
    (u.par.variant = .B ∧ 1 ≤ u.par.busyRetryMax ∧ u.par.busyRetryMax ≤ 256 ∧ u.graceDone = true) ∧
    (u.battSampled = true ∧ u.extPowered = false) ∧ (s [] false).battSampled = false ∧
    ((4 : Byte) ≠ 0 ∧ (4 : Byte).toNat < u.par.critPct) ∧ u.par.critPct ≤ (5 : Byte).toNat ∧
    u.par.idleTimeoutMs ≤ (u.nowMs - u.lastActivityMs).toNat ∧
    u.env.busy = List.replicate u.par.busyRetryMax true ++ [] ∧
    ∀ j, j = 0 ∨ j = 99 → j < u.par.busyRetryMax ∧
      (s (List.replicate j true ++ false :: (List.replicate 100 true ++ [])) true).env.busy =
        List.replicate j true ++ false :: (List.replicate u.par.busyRetryMax true ++ []) :=
  ⟨by decide, by decide, by decide, by decide, by decide, by decide, by decide +kernel,
    fun _ h => ⟨by rcases h with rfl | rfl <;> decide, rfl⟩⟩

/-- 60_exceptions.md rule R343: a fault in the read-back of a DeepSleep entry; the sleep goes on, the mode is not
updated. -/
theorem test_deepSleep_readback_fault :
    let s : State := { busyB [true] with
      nowMs := 41000, radioMode := .standby,
      phase := .running (.pwrTick 4) [.enterSleep .deep] noLocals (.readback .sleep 99) }
    let t := tickStep s
    t.phase = .running (.pwrTick 4) [] noLocals (.sleep .deep 41001) ∧ t.pwrState = .deepSleep ∧
      t.radioMode = .standby ∧ t.sticky = ⟨true, false, false, false⟩ ∧ t.resp = none := by decide

/-- An externally powered block, and a tick. -/
theorem witness_ExtPoweredStaysAwake :
    let s := scheduled [.tick] { State.reset with extPowered := true, battSampled := true }
    powerMatchesPhase s ∧ extPoweredAwake s ∧ s.extPowered = true ∧ ∃ t, step s = .next t :=
  ⟨rfl, fun _ => ⟨rfl, rfl, rfl, fun _ => List.not_mem_nil⟩, rfl, _, rfl⟩

theorem witness_PowerStateMatchesPhase :
    powerMatchesPhase (asleep .light) ∧ ∃ t, step (asleep .light) = .next t := ⟨rfl, _, rfl⟩

/-- The window's length reached; and the tick at which the time base wraps. -/
theorem witness_GraceStaysClosed :
    let s := scheduled [.tick] (onBattery 10000 0)
    let u := scheduled [.tick] (onBattery 0xFFFFFFFF 0)
    (graceClosed s ∧ s.par.bootGraceMs ≤ s.nowMs.toNat ∧ ∃ t, step s = .next t) ∧
      u.graceDone = true ∧ resetsNext u = false ∧ ∃ t, step u = .next t ∧ t.nowMs = 0 :=
  ⟨⟨fun _ => rfl, by decide, _, rfl⟩, rfl, rfl, _, rfl, by decide⟩

/-- A partial command, and a byte that does not complete it. -/
theorem witness_PortStaysQuiet :
    let s : State := { State.reset with
      cmdBuf := [0x31], env := { Env.free with sched := [.hostWrite], hostBytes := [0x01] } }
    portQuiet s ∧ ∃ t, step s = .next t := ⟨⟨fun h => absurd rfl h, by decide⟩, _, rfl⟩

theorem witness_CommandsWriteOnlyTheirRegisters :
    (∃ t, exec .pktSerialize State.reset = .next t) ∧
      ∃ t, exec (.evqPush 1) State.reset = .next t ∧ t.evq ≠ State.reset.evq :=
  ⟨⟨_, rfl⟩, _, rfl, by decide⟩

/-- A command; and a tick, at which no command begins and nothing resets. -/
theorem witness_CountersAndStickyBitsGrow :
    (∃ t, exec .pipeRecv (receiving [1, 2, 3] 0) = .next t ∧ t.counters.crcErr = 0 + 1 ∧
      instrOpcode .pipeRecv ≠ .statusClear) ∧
    let s : State := { transmitting false with nowMs := 4999 }
    resetsNext s = false ∧ (∀ mask, commandBegun s ≠ some (.statusClear mask)) ∧
      ∃ t, step s = .next t ∧ t.sticky = ⟨false, true, false, false⟩ :=
  ⟨⟨_, rfl, by decide, by decide⟩, rfl, (fun _ h => nomatch h), _, rfl, by decide⟩

/-- The reset input in a sleep; and a trigger and the last tick of the DeepSleep wait. -/
theorem witness_ResetValues :
    (scheduled [.powerOnReset] (asleep .light)).env.sched = .powerOnReset :: [] ∧
      resetsNext (scheduled [.powerOnReset] (asleep .light)) = true ∧ resetsNext (asleep .deep) = true ∧
      resetsNext (scheduled [.tick] { asleep .deep with nowMs := 3639999 }) = true ∧
      resetsNext (scheduled [.tick] { asleep .deep with nowMs := 3639998 }) = false := by decide

/-- A trigger in LightSleep, and the tick that resumes PIPE_RECV in variant B before its last line. -/
theorem witness_StepsWriteOnlyTheirRegisters :
    (∃ t u, drawStep (asleep .light) = (.trigger, u) ∧ resetsNext (asleep .light) = false ∧
      step (asleep .light) = .next t ∧ t.lastAcceptMs ≠ (asleep .light).lastAcceptMs) ∧
    let s : State := { transmittingB false [false] with
      phase := .running .pipeRecv [.deliver] noLocals (.readback .rxCont 3) }
    ∃ t u, drawStep s = (.tick, u) ∧ resetsNext s = false ∧ step s = .next t ∧
      linesToRun s.phase = [.deliver] ∧ t.counters ≠ s.counters :=
  ⟨⟨_, _, rfl, rfl, rfl, by decide⟩, _, _, rfl, rfl, rfl, rfl, by decide⟩

/-- A reset in variant B, with a busy radio to come. -/
theorem witness_InvariantsHoldAtReset :
    busyB [true] = State.resetWith (Config.defaults .B Config.zeroCfg) Radio.initial
      { Env.free with busy := [true] } := rfl

end Sys2Proof.Tests
end

section
/-! PROOFS. Variant B with a radio that is never busy does what variant A does (00_scope.md rule R3;
42_transceiver.md rules R193, R194): each line of a command takes at most two samples of `radio.busy` and, both
being ready, leaves what the same line leaves at once in variant A. -/

namespace Sys2Proof.Proofs.NeverBusy

open Sys2Proof Sys2Proof.Machine

/-! ## Samples to come -/

/-- Variant B with at least `n` samples of `radio.busy` to come, none of them busy. -/
def neverBusy (n : Nat) (s : State) : Prop :=
  s.par.variant = .B ∧ n ≤ s.env.busy.length ∧ ∀ b ∈ s.env.busy, b = false

/-- `s` with the samples of `radio.busy` to come replaced: what a draw of one does to the state. -/
def withSamples (samples : List Bool) (s : State) : State :=
  { s with env := { s.env with busy := samples } }

/-- Fewer samples are asked for. -/
theorem neverBusy.mono {m n : Nat} {s : State} (h : neverBusy n s) (hmn : m ≤ n) : neverBusy m s :=
  ⟨h.1, Nat.le_trans hmn h.2.1, h.2.2⟩

/-- The next sample is ready, and the ones after it are never busy. -/
theorem neverBusy.draw {n : Nat} {s : State} (h : neverBusy (n + 1) s) :
    ∃ rest, s.env.busy = false :: rest ∧ neverBusy n (withSamples rest s) := by
  obtain ⟨hv, hlen, hall⟩ := h
  cases hb : s.env.busy with
  | nil => rw [hb] at hlen; exact absurd hlen (Nat.not_succ_le_zero n)
  | cons b rest =>
    rw [hb] at hlen hall
    obtain rfl : b = false := hall b List.mem_cons_self
    exact ⟨rest, rfl, hv, Nat.le_of_succ_le_succ hlen, fun b hmem => hall b (List.mem_cons_of_mem _ hmem)⟩

/-- The draws of `radio.present` leave the samples of `radio.busy` alone. -/
theorem neverBusy.drawPresent {n : Nat} {s : State} (h : neverBusy n s) :
    neverBusy n (drawPresent s).2 := by
  unfold Machine.drawPresent
  split <;> exact h

/-! ## The same operation in variant A -/

/-- A draw of `radio.present` does not depend on the variant. -/
theorem drawPresent_asVariantA (s : State) :
    drawPresent (asVariantA s) = ((drawPresent s).1, asVariantA (drawPresent s).2) := by
  have hsame : (asVariantA s).env.present = s.env.present := rfl
  cases h : s.env.present <;> simp only [drawPresent, hsame, h] <;> rfl

/-- A push onto the event FIFO does not depend on the variant; nor do the pushes onto the other two. -/
theorem pushEvq_asVariantA (x : Byte) (s : State) :
    pushEvq x (asVariantA s) = ((pushEvq x s).1, asVariantA (pushEvq x s).2) := by
  have hsame : fifoPush (asVariantA s).par.evqCap (asVariantA s).evq x = fifoPush s.par.evqCap s.evq x := rfl
  cases h : fifoPush s.par.evqCap s.evq x <;> simp only [pushEvq, hsame, h] <;> rfl

theorem pushTxq_asVariantA (p : Packet) (s : State) :
    pushTxq p (asVariantA s) = ((pushTxq p s).1, asVariantA (pushTxq p s).2) := by
  have hsame : fifoPush (asVariantA s).par.txqCap (asVariantA s).txq p = fifoPush s.par.txqCap s.txq p := rfl
  cases h : fifoPush s.par.txqCap s.txq p <;> simp only [pushTxq, hsame, h] <;> rfl

theorem pushRxq_asVariantA (p : Packet) (s : State) :
    pushRxq p (asVariantA s) = ((pushRxq p s).1, asVariantA (pushRxq p s).2) := by
  have hsame : fifoPush (asVariantA s).par.rxqCap (asVariantA s).rxq p = fifoPush s.par.rxqCap s.rxq p := rfl
  cases h : fifoPush s.par.rxqCap s.rxq p <;> simp only [pushRxq, hsame, h] <;> rfl

/-- A response does not depend on the variant. -/
theorem respond_asVariantA (st : Status) (pl : List Byte) (s : State) :
    respond st pl (asVariantA s) = asVariantA (respond st pl s) := rfl

/-- The last line of PIPE_RECV does not depend on the variant. -/
theorem deliverFrame_asVariantA (l : Locals) (s : State) :
    deliverFrame l (asVariantA s) = asVariantA (deliverFrame l s) := by
  have hvalid : packetValid (asVariantA s).par (unframe l.frame) = packetValid s.par (unframe l.frame) := rfl
  unfold deliverFrame
  by_cases hn : l.n ≠ 9
  · simp only [if_pos hn]; rfl
  · simp only [if_neg hn, hvalid]
    split
    · rw [pushRxq_asVariantA]
      cases pushRxq (unframe l.frame) s with
      | mk pushed u => cases pushed <;> rfl
    · rfl

/-! ## One line -/

/-- `q` is in variant A what `p` is in variant B, and where the command goes on, `n` samples that are not busy
are still to come in variant B. -/
def actsAsA (n : Nat) : Progress → Progress → Prop
  | .on l u, .on l' v => l' = l ∧ v = asVariantA u ∧ neverBusy n u
  | .stop u, .stop v => v = asVariantA u
  | _, _ => False

/-- An op that completes at once does so in both variants (42_transceiver.md rule R193). -/
theorem performAtOnce_actsAsA {n : Nat} {s : State} (h : neverBusy n s) (op : RadioOp) (l : Locals) :
    actsAsA n (performAtOnce op l s) (performAtOnce op l (asVariantA s)) := by
  cases op with
  | probe =>
    have hdraw := drawPresent_asVariantA (recordOp .probe s)
    have hop : recordOp .probe (asVariantA s) = asVariantA (recordOp .probe s) := rfl
    have hkept : neverBusy n (recordOp .probe s) := h
    simp only [performAtOnce, performOp, hop, hdraw]
    exact ⟨rfl, rfl, hkept.drawPresent⟩
  | configure cfg => exact ⟨rfl, rfl, h⟩
  | writePayload data => exact ⟨rfl, rfl, h⟩
  | setMode m => exact ⟨rfl, rfl, h⟩
  | readFrame => exact ⟨rfl, rfl, h⟩
  | clearIrq => exact ⟨rfl, rfl, h⟩

/-- The read-back of a `SetMode` whose first sample is ready completes the mode change. -/
theorem awaitReadback_neverBusy {n : Nat} {s : State} (h : neverBusy (n + 1) s) (c : Instr)
    (k : List Micro) (l : Locals) (m : ChipMode) :
    ∃ rest, neverBusy n (withSamples rest s) ∧
      awaitReadback c k l m 1 s = .on l (completeMode m (withSamples rest s)) := by
  obtain ⟨rest, hb, hrest⟩ := h.draw
  exact ⟨rest, hrest, by simp only [awaitReadback, sampleBusy_ready 1 hb]; rfl⟩

/-- `radio(op)` in variant B with two samples that are not busy completes the op at once, as variant A does
(42_transceiver.md rule R194). -/
theorem radioIssue_neverBusy {n : Nat} {s : State} (h : neverBusy (n + 2) s) (c : Instr)
    (k : List Micro) (l : Locals) (op : RadioOp) :
    ∃ rest, neverBusy n (withSamples rest s) ∧
      radioIssue c k l op s = performAtOnce op l (withSamples rest s) := by
  obtain ⟨rest, hb, hrest⟩ := h.draw
  have hissue : radioIssue c k l op s = performReady c k l op (withSamples rest s) := by
    simp only [radioIssue, h.1, awaitReady_ready c k l op hb]; rfl
  rw [hissue]
  cases op with
  | setMode m =>
    have hkept : neverBusy (n + 1) (recordOp (.setMode m) (withSamples rest s)) := hrest
    obtain ⟨rest', hrest', hback⟩ := awaitReadback_neverBusy hkept c k l m
    exact ⟨rest', hrest', hback⟩
  | _ => exact ⟨rest, hrest.mono (Nat.le_succ n), rfl⟩

/-- A radio op with two samples that are not busy does in variant A what it does in variant B. -/
theorem radioIssue_actsAsA {n : Nat} {s : State} (h : neverBusy (n + 2) s) (c : Instr) (k : List Micro)
    (l : Locals) (op : RadioOp) :
    actsAsA n (radioIssue c k l op s) (radioIssue c k l op (asVariantA s)) := by
  obtain ⟨rest, hrest, hB⟩ := radioIssue_neverBusy h c k l op
  have hA : radioIssue c k l op (asVariantA s) = performAtOnce op l (asVariantA (withSamples rest s)) := rfl
  rw [hB, hA]
  exact performAtOnce_actsAsA hrest op l

/-- One line of a command with two samples that are not busy does in variant A what it does in variant B. -/
theorem stepMicro_actsAsA {n : Nat} {s : State} (h : neverBusy (n + 2) s) (c : Instr) (k : List Micro)
    (m : Micro) (l : Locals) :
    actsAsA n (stepMicro c k m l s) (stepMicro c k m l (asVariantA s)) := by
  have hfew : neverBusy n s := h.mono (Nat.le_add_right n 2)
  cases m with
  | radio op => exact radioIssue_actsAsA h c k l op
  | configure => exact radioIssue_actsAsA h c k l (.configure (linkSettings s.par s.cfg))
  | writePayload => exact radioIssue_actsAsA h c k l (.writePayload l.data)
  | toStandby =>
    by_cases hm : s.radioMode = .standby
    · have hmA : (asVariantA s).radioMode = .standby := hm
      rw [stepMicro_toStandby, stepMicro_toStandby, if_pos hm, if_pos hmA]
      exact ⟨rfl, rfl, hfew⟩
    · have hmA : ¬ (asVariantA s).radioMode = .standby := hm
      rw [stepMicro_toStandby, stepMicro_toStandby, if_neg hm, if_neg hmA]
      exact radioIssue_actsAsA h c k l (.setMode .standby)
  | failAbsent =>
    simp only [stepMicro]
    split
    · exact ⟨rfl, rfl, hfew⟩
    · exact rfl
  | setConfigured => exact ⟨rfl, rfl, hfew⟩
  | takeFrame maxLen => exact ⟨rfl, rfl, hfew⟩
  | deliver => exact deliverFrame_asVariantA l s
  | txWait => exact rfl
  | failTimeout => exact rfl
  | respondFrame => exact rfl
  | respondOk => exact rfl
  | enterSleep kind => exact rfl

/-! ## Runs -/

/-- A run of the lines `k`, with two samples a line that are not busy, leaves in variant A what it leaves in
variant B. -/
theorem runLines_asVariantA (c : Instr) (k : List Micro) (l : Locals) (s : State)
    (h : neverBusy (2 * k.length) s) :
    runLines c k l (asVariantA s) = asVariantA (runLines c k l s) := by
  induction k generalizing l s with
  | nil => rfl
  | cons m k ih =>
    have hline := stepMicro_actsAsA (n := 2 * k.length) h c k m l
    simp only [runLines]
    cases hB : stepMicro c k m l s <;> cases hA : stepMicro c k m l (asVariantA s) <;> rw [hB, hA] at hline
    case on.on l₁ u l₂ v =>
      obtain ⟨rfl, rfl, hu⟩ := hline
      exact ih l₂ u hu
    case on.stop => exact hline.elim
    case stop.on => exact hline.elim
    case stop.stop u v => exact hline

/-- The same for a body of at most 8 lines, which 16 samples suffice for. -/
theorem runLines_asVariantA_of_le {s : State} (h : neverBusy 16 s) (c : Instr) {k : List Micro}
    (hk : k.length ≤ 8) (l : Locals) : runLines c k l (asVariantA s) = asVariantA (runLines c k l s) :=
  runLines_asVariantA c k l s (h.mono (Nat.mul_le_mul_left 2 hk))

/-! ## Commands -/

/-- The latch of PWR_TICK does not depend on the variant. -/
theorem sampleBattery_asVariantA (b : Byte) (s : State) :
    sampleBattery b (asVariantA s) = asVariantA (sampleBattery b s) := by
  simp only [sampleBattery, apply_ite asVariantA]
  rfl

/-- The latch takes no sample of `radio.busy`. -/
theorem neverBusy.sampleBattery {n : Nat} {s : State} (h : neverBusy n s) (b : Byte) :
    neverBusy n (sampleBattery b s) := by
  rcases sampleBattery_cases b s with ⟨-, hs⟩ | ⟨-, hs⟩ <;> rw [hs] <;> exact h

/-- PWR_TICK's decision and the sleep entry it may run. -/
theorem powerDecision_asVariantA {s : State} (h : neverBusy 16 s) (b : Byte) :
    powerDecision b (asVariantA s) = asVariantA (powerDecision b s) := by
  have hsleep : ∀ kind, runLines (.pwrTick b) (enterSleepBody kind) noLocals (asVariantA s) =
      asVariantA (runLines (.pwrTick b) (enterSleepBody kind) noLocals s) :=
    fun kind => runLines_asVariantA_of_le h _ (by simp [enterSleepBody]) _
  simp only [powerDecision, hsleep, respond_asVariantA, apply_ite asVariantA]
  rfl

/-- RADIO_WAKE's arm from Standby. -/
theorem wakeToReceive_asVariantA {s : State} (h : neverBusy 16 s) :
    wakeToReceive (asVariantA s) = asVariantA (wakeToReceive s) := by
  have hrun := runLines_asVariantA_of_le h .radioWake (k := wakeToReceiveBody) (by decide) noLocals
  simp only [wakeToReceive, hrun, fail_eq_respond, respond_asVariantA, apply_ite asVariantA]
  rfl

/-- RADIO_WAKE, in each mode, and in `Transmitting` for each arm that the free value chooses. -/
theorem execRadioWake_asVariantA {s : State} (h : neverBusy 16 s) :
    ∃ t, execRadioWake s = .next t ∧ execRadioWake (asVariantA s) = .next (asVariantA t) := by
  have hmode : (asVariantA s).radioMode = s.radioMode := rfl
  have hdraws : (asVariantA s).env.draws = s.env.draws := rfl
  have hcount : countDraw (asVariantA s) = asVariantA (countDraw s) := rfl
  have hc : neverBusy 16 (countDraw s) := h
  have hrun : ∀ u, neverBusy 16 u → runLines .radioWake wakeToStandbyBody noLocals (asVariantA u) =
      asVariantA (runLines .radioWake wakeToStandbyBody noLocals u) :=
    fun u hu => runLines_asVariantA_of_le hu _ (by decide) _
  refine ⟨_, rfl, congrArg Host.Outcome.next ?_⟩
  cases hm : s.radioMode with
  | sleep => simp only [hmode, hm, hrun s h]
  | standby => simp only [hmode, hm, wakeToReceive_asVariantA h]
  | receivingContinuous => simp only [hmode, hm, respond_asVariantA]
  | transmitting =>
    cases ha : Config.freeWake s.env.draws <;>
      simp only [hmode, hm, hdraws, ha, hcount, hrun _ hc, wakeToReceive_asVariantA hc, respond_asVariantA]

/-- PIPE_BUILD, with an event or without one. -/
theorem execPipeBuild_asVariantA (b : Byte) (s : State) :
    ∃ t, execPipeBuild b s = .next t ∧ execPipeBuild b (asVariantA s) = .next (asVariantA t) := by
  have hevq : (asVariantA s).evq = s.evq := rfl
  refine ⟨_, rfl, congrArg Host.Outcome.next ?_⟩
  cases hq : s.evq with
  | nil => simp only [hevq, hq]; rfl
  | cons e rest =>
    have hpacket : buildPacket (asVariantA s).par (asVariantA s).cfg.nodeId (asVariantA s).nowMs e b =
        buildPacket s.par s.cfg.nodeId s.nowMs e b := rfl
    have hnotify : notify { asVariantA s with evq := rest } = asVariantA (notify { s with evq := rest }) := rfl
    simp only [hevq, hq, hpacket, hnotify, pushTxq_asVariantA]
    cases pushTxq (buildPacket s.par s.cfg.nodeId s.nowMs e b) (notify { s with evq := rest }) with
    | mk pushed u => cases pushed <;> rfl

/-- PIPE_SEND, with a packet to send or without one. -/
theorem execPipeSend_asVariantA {s : State} (h : neverBusy 16 s) :
    ∃ t, execPipeSend s = .next t ∧ execPipeSend (asVariantA s) = .next (asVariantA t) := by
  have htxq : (asVariantA s).txq = s.txq := rfl
  refine ⟨_, rfl, congrArg Host.Outcome.next ?_⟩
  cases hq : s.txq with
  | nil =>
    simp only [htxq, hq, fail_eq_respond, respond_asVariantA, apply_ite asVariantA]
    rfl
  | cons p rest =>
    have hpopped : neverBusy 16 { s with txq := rest } := h
    have hpop : { asVariantA s with txq := rest } = asVariantA { s with txq := rest } := rfl
    have hrun := runLines_asVariantA_of_le hpopped .pipeSend (k := transmitBody) (by decide)
      { noLocals with data := frame p }
    simp only [htxq, hq, hpop, hrun, fail_eq_respond, respond_asVariantA, apply_ite asVariantA]
    rfl

/-- Every command but STATUS_READ does in variant A what it does in variant B with 16 samples that are not
busy. -/
theorem exec_asVariantA {i : Instr} (hi : i ≠ .statusRead) {s : State} (h : neverBusy 16 s) :
    ∃ t, exec i s = .next t ∧ exec i (asVariantA s) = .next (asVariantA t) := by
  have run : ∀ {k : List Micro} {l : Locals}, k.length ≤ 8 →
      runLines i k l (asVariantA s) = asVariantA (runLines i k l s) :=
    fun hk => runLines_asVariantA_of_le h i hk _
  cases i with
  | statusRead => exact absurd rfl hi
  | nop => exact ⟨_, rfl, rfl⟩
  | statusClear mask => exact ⟨_, rfl, rfl⟩
  | timeRead => exact ⟨_, rfl, rfl⟩
  | crc16 data => exact ⟨_, rfl, rfl⟩
  | pktBuild nodeId timestamp eventType batteryLevel => exact ⟨_, rfl, rfl⟩
  | pktSerialize => exact ⟨_, rfl, rfl⟩
  | pktDeserialize f => exact ⟨_, rfl, rfl⟩
  | pktValidate => exact ⟨_, rfl, rfl⟩
  | radioPoll => exact ⟨_, rfl, rfl⟩
  | radioRssi => exact ⟨_, rfl, rfl⟩
  | pwrNotify => exact ⟨_, rfl, rfl⟩
  | queueStatus => exact ⟨_, rfl, rfl⟩
  | cntRead idx =>
    refine ⟨_, rfl, congrArg Host.Outcome.next ?_⟩
    have hsame : counterRead idx (asVariantA s).counters = counterRead idx s.counters := rfl
    rw [hsame]
    cases counterRead idx s.counters <;> rfl
  | cfgRead idx =>
    refine ⟨_, rfl, congrArg Host.Outcome.next ?_⟩
    have hsame : cfgRead (asVariantA s).par idx (asVariantA s).cfg = cfgRead s.par idx s.cfg := rfl
    rw [hsame]
    cases cfgRead s.par idx s.cfg <;> rfl
  | cfgWrite idx val =>
    refine ⟨_, rfl, congrArg Host.Outcome.next ?_⟩
    have hsame : cfgWrite idx val (asVariantA s).cfg = cfgWrite idx val s.cfg := rfl
    rw [hsame]
    cases cfgWrite idx val s.cfg <;> rfl
  | evqPush e =>
    refine ⟨_, rfl, congrArg Host.Outcome.next ?_⟩
    rw [pushEvq_asVariantA]
    cases pushEvq e s with
    | mk pushed u => cases pushed <;> rfl
  | evqPop =>
    refine ⟨_, rfl, congrArg Host.Outcome.next ?_⟩
    have hsame : (asVariantA s).evq = s.evq := rfl
    rw [hsame]
    cases s.evq <;> rfl
  | rxqPop =>
    refine ⟨_, rfl, congrArg Host.Outcome.next ?_⟩
    have hsame : (asVariantA s).rxq = s.rxq := rfl
    rw [hsame]
    cases s.rxq <;> rfl
  | pipeBuild b => exact execPipeBuild_asVariantA b s
  | radioInit =>
    have hinit : neverBusy 16 { s with configured := false } := h
    exact ⟨_, rfl, congrArg Host.Outcome.next
      (runLines_asVariantA_of_le hinit .radioInit (k := initBody) (by decide) noLocals)⟩
  | radioTransmit data =>
    refine ⟨_, rfl, congrArg Host.Outcome.next ?_⟩
    simp only [run (k := transmitBody) (by decide), fail_eq_respond, respond_asVariantA, apply_ite asVariantA]
    rfl
  | radioReceive maxLen =>
    refine ⟨_, rfl, congrArg Host.Outcome.next ?_⟩
    simp only [run (k := receiveBody maxLen ++ [.respondFrame]) (by simp [receiveBody]), fail_eq_respond,
      respond_asVariantA, apply_ite asVariantA]
    rfl
  | radioSleep => exact ⟨_, rfl, congrArg Host.Outcome.next (run (by decide))⟩
  | radioWake => exact execRadioWake_asVariantA h
  | radioRxStart =>
    refine ⟨_, rfl, congrArg Host.Outcome.next ?_⟩
    simp only [run (k := rxStartBody) (by decide), fail_eq_respond, respond_asVariantA, apply_ite asVariantA]
    rfl
  | pwrTick b =>
    refine ⟨_, rfl, congrArg Host.Outcome.next ?_⟩
    rw [sampleBattery_asVariantA, powerDecision_asVariantA (h.sampleBattery b)]
  | pipeSend => exact execPipeSend_asVariantA h
  | pipeRecv =>
    refine ⟨_, rfl, congrArg Host.Outcome.next ?_⟩
    simp only [run (k := receiveBody 255 ++ [.deliver]) (by decide), fail_eq_respond, respond_asVariantA,
      apply_ite asVariantA]
    rfl

/-! ## Ticks -/

/-- The clock and the grace comparator do not depend on the variant. -/
theorem advanceClock_asVariantA (s : State) : advanceClock (asVariantA s) = asVariantA (advanceClock s) := by
  rw [advanceClock_eq, advanceClock_eq]
  rfl

/-- The clock takes no sample of `radio.busy`. -/
theorem neverBusy.advanceClock {n : Nat} {s : State} (h : neverBusy n s) : neverBusy n (advanceClock s) := by
  rw [advanceClock_eq]
  exact h

/-- The end of a transmit wait or of a sleep wait. -/
theorem resumeWait_asVariantA {s : State} (h : neverBusy 16 s) (c : Instr) {k : List Micro}
    (hk : k.length ≤ 8) (l : Locals) {w : Wait} (hready : ∀ op n, w ≠ .ready op n)
    (hreadback : ∀ m n, w ≠ .readback m n) :
    resumeWait c k l w (asVariantA s) = asVariantA (resumeWait c k l w s) := by
  cases w with
  | ready op n => exact absurd rfl (hready op n)
  | readback m n => exact absurd rfl (hreadback m n)
  | tx start =>
    have htimeout : neverBusy 16 (recordTxTimeout s) := h
    have hrun := runLines_asVariantA_of_le h c hk l
    have hrunTimeout := runLines_asVariantA_of_le htimeout c (k := transmitTimeoutBody) (by decide) l
    have hrecord : recordTxTimeout (asVariantA s) = asVariantA (recordTxTimeout s) := rfl
    simp only [resumeWait, hrun, hrecord, hrunTimeout, apply_ite asVariantA]
    rfl
  | sleep kind start =>
    cases kind with
    | light => simp only [resumeWait, apply_ite asVariantA]; rfl
    | deep => simp only [resumeWait, apply_ite asVariantA]; rfl

/-- A tick outside the busy waits. -/
theorem tickStep_asVariantA {s : State} (h : neverBusy 16 s)
    (hready : ∀ c k l op n, s.phase ≠ .running c k l (.ready op n))
    (hreadback : ∀ c k l m n, s.phase ≠ .running c k l (.readback m n))
    (hlines : (linesToRun s.phase).length ≤ 8) :
    tickStep (asVariantA s) = asVariantA (tickStep s) := by
  cases hp : s.phase with
  | idle =>
    have hpA : (asVariantA s).phase = .idle := hp
    rw [tickStep_idle hp, tickStep_idle hpA, advanceClock_asVariantA]
  | running c k l w =>
    have hpA : (asVariantA s).phase = .running c k l w := hp
    rw [hp] at hready hreadback hlines
    rw [tickStep_running hp, tickStep_running hpA, advanceClock_asVariantA]
    refine resumeWait_asVariantA h.advanceClock c hlines l ?_ ?_
    · rintro op n rfl
      exact hready c k l op n rfl
    · rintro m n rfl
      exact hreadback c k l m n rfl

/-! ## The obligation -/

/-- Settles O43: command by command from `exec_asVariantA`, tick by tick from `tickStep_asVariantA`. -/
theorem readyVariantBActsAsA : Obligations.ReadyVariantBActsAsA := by
  unfold Obligations.ReadyVariantBActsAsA
  intro s hv hlen hall
  have h : neverBusy 16 s := ⟨hv, hlen, hall⟩
  refine ⟨?_, tickStep_asVariantA h⟩
  intro i t hi ht
  obtain ⟨u, hB, hA⟩ := exec_asVariantA hi h
  obtain rfl : u = t := Host.Outcome.next.inj (hB.symm.trans ht)
  exact hA

end Sys2Proof.Proofs.NeverBusy
end

section
/-! PROOFS. What each command and each agent's step does to the registers, FIFOs, counters and sticky bits of
10_state.md: the FIFOs stay within their capacities, variant A's radio mode agrees with the phase, commands
write only the elements that their rules name, and counters and sticky bits only grow. -/

namespace Sys2Proof.Proofs.StateElements

open Sys2Proof Sys2Proof.Machine

/-! ## The steps of the host's read and of the radio -/

theorem hostReadStep_frame (s : State) : ∃ r e, hostReadStep s = { s with resp := r, env := e } := by
  unfold hostReadStep
  split <;> exact ⟨_, _, rfl⟩

theorem rxDoneStep_frame (f : List Byte) (raw : Byte) (s : State) :
    ∃ p r, rxDoneStep f raw s = { s with rxPending := p, radio := r } := by
  unfold rxDoneStep
  split <;> exact ⟨_, _, rfl⟩

theorem txDoneStep_frame (s : State) : ∃ r, txDoneStep s = { s with radio := r } := by
  unfold txDoneStep
  split <;> exact ⟨_, rfl⟩

/-! ## The start of a command's body -/

/-- What command `i` may have written when it starts its body in `u`: RADIO_INIT has cleared `configured`,
PWR_TICK has sampled the battery, PIPE_SEND has popped its packet, and RADIO_WAKE may have drawn. -/
def startFrame (i : Instr) (s u : State) : Prop :=
  ∃ c x b q e,
    u = { s with configured := c, extPowered := x, battSampled := b, txq := q, env := e } ∧
    (c = s.configured ∨ instrOpcode i = .radioInit) ∧
    (x = s.extPowered ∧ b = s.battSampled ∨ instrOpcode i = .pwrTick) ∧
    (q = s.txq ∨ instrOpcode i = .pipeSend ∧ ∃ p, s.txq = p :: q)

theorem startFrame_env (i : Instr) (s : State) (e : Env) : startFrame i s { s with env := e } :=
  ⟨_, _, _, _, e, rfl, .inl rfl, .inl ⟨rfl, rfl⟩, .inl rfl⟩

theorem startsRun_frame {i : Instr} {s u : State} {k : List Micro} (h : startsRun i s k u) :
    startFrame i s u := by
  cases i with
  | radioInit =>
    obtain ⟨-, rfl⟩ := h
    exact ⟨_, _, _, _, _, rfl, .inr rfl, .inl ⟨rfl, rfl⟩, .inl rfl⟩
  | radioWake => obtain ⟨-, rfl | rfl⟩ := h <;> exact startFrame_env _ _ _
  | pwrTick b =>
    obtain ⟨_, -, rfl, -⟩ := h
    rcases sampleBattery_cases b s with ⟨-, h'⟩ | ⟨-, h'⟩ <;> rw [h']
    · exact startFrame_env _ _ _
    · exact ⟨_, _, _, _, _, rfl, .inl rfl, .inr rfl, .inl rfl⟩
  | pipeSend =>
    obtain ⟨-, p, q, hq, rfl⟩ := h
    exact ⟨_, _, _, _, _, rfl, .inl rfl, .inl ⟨rfl, rfl⟩, .inr ⟨rfl, p, hq⟩⟩
  | radioTransmit d => obtain ⟨-, rfl⟩ := h; exact startFrame_env _ _ _
  | radioReceive m => obtain ⟨-, rfl⟩ := h; exact startFrame_env _ _ _
  | radioSleep => obtain ⟨-, rfl⟩ := h; exact startFrame_env _ _ _
  | radioRxStart => obtain ⟨-, rfl⟩ := h; exact startFrame_env _ _ _
  | pipeRecv => obtain ⟨-, rfl⟩ := h; exact startFrame_env _ _ _
  | _ => exact h.elim

/-- Only the commands that issue radio ops run a body, and a line that writes a register stands only in the
bodies of the commands whose rules write it. -/
theorem startsRun_lines {i : Instr} {s u : State} {k : List Micro} (h : startsRun i s k u) :
    instrOpcode i ∈ radioOpcodes ∧
      ((∃ m, .takeFrame m ∈ k) → instrOpcode i = .radioReceive ∨ instrOpcode i = .pipeRecv) ∧
      (.setConfigured ∈ k → instrOpcode i = .radioInit) ∧
      ((∃ kind, .enterSleep kind ∈ k) → instrOpcode i = .pwrTick) ∧
      (.deliver ∈ k → instrOpcode i = .pipeRecv) := by
  cases i with
  | radioInit => obtain ⟨rfl, -⟩ := h; simp [initBody, instrOpcode, radioOpcodes]
  | radioTransmit d => obtain ⟨rfl, -⟩ := h; simp [transmitBody, transmitDoneBody, instrOpcode, radioOpcodes]
  | radioReceive m => obtain ⟨rfl, -⟩ := h; simp [receiveBody, instrOpcode, radioOpcodes]
  | radioSleep => obtain ⟨rfl, -⟩ := h; simp [radioSleepBody, instrOpcode, radioOpcodes]
  | radioWake =>
    obtain ⟨rfl | rfl, -⟩ := h
    · simp [wakeToStandbyBody, instrOpcode, radioOpcodes]
    · simp [wakeToReceiveBody, instrOpcode, radioOpcodes]
  | radioRxStart => obtain ⟨rfl, -⟩ := h; simp [rxStartBody, instrOpcode, radioOpcodes]
  | pwrTick b => obtain ⟨kind, rfl, -⟩ := h; simp [enterSleepBody, instrOpcode, radioOpcodes]
  | pipeSend => obtain ⟨rfl, -⟩ := h; simp [transmitBody, transmitDoneBody, instrOpcode, radioOpcodes]
  | pipeRecv => obtain ⟨rfl, -⟩ := h; simp [receiveBody, instrOpcode, radioOpcodes]
  | _ => exact h.elim

/-! ## What a command answers from -/

/-- The state `u` from which a command that answers at once and has written something answers. -/
def answersBy (i : Instr) (s u : State) : Prop :=
  match i with
  | .statusClear mask => u = { s with sticky := clearSticky mask s.sticky }
  | .cfgWrite _ _ => ∃ r, u = { s with cfg := r }
  | .pktBuild _ _ _ _ => ∃ p, u = { s with pkt := p }
  | .pktDeserialize _ => ∃ p, u = { s with pkt := p }
  | .radioWake => u = countDraw s
  | .pwrNotify => u = notify s
  | .pwrTick b => u = sampleBattery b s
  | .evqPush x => u = (pushEvq x s).2
  | .evqPop => ∃ q, u = { s with evq := q }
  | .pipeBuild _ => ∃ p q, u = (pushTxq p (notify { s with evq := q })).2
  | .rxqPop => ∃ q, u = { s with rxq := q }
  | _ => False

/-- How a command leaves the step that begins it: it has answered, and written at most what `answersBy`
says, or it has run its body. -/
def leaves (i : Instr) (s t : State) : Prop :=
  (∃ st pl u, t = respond st pl u ∧ (u = s ∨ answersBy i s u)) ∨
    ∃ k l u, t = runLines i k l u ∧ startsRun i s k u

theorem leaves_of_answer {i : Instr} {s : State} (st : Status) (pl : List Byte) :
    leaves i s (respond st pl s) := .inl ⟨st, pl, s, rfl, .inl rfl⟩

theorem leaves_of_write {i : Instr} {s u : State} (st : Status) (pl : List Byte) (h : answersBy i s u) :
    leaves i s (respond st pl u) := .inl ⟨st, pl, u, rfl, .inr h⟩

theorem leaves_of_run {i : Instr} {s u : State} {k : List Micro} (l : Locals) (h : startsRun i s k u) :
    leaves i s (runLines i k l u) := .inr ⟨k, l, u, rfl, h⟩

/-- RADIO_WAKE's arm from Standby, in a state that only a draw parts from the one it began in. -/
theorem leaves_wakeToReceive {s u : State} (hu : u = s ∨ u = countDraw s) :
    leaves .radioWake s (wakeToReceive u) := by
  unfold wakeToReceive
  split
  · exact leaves_of_run _ ⟨.inr rfl, hu⟩
  · exact .inl ⟨_, _, u, rfl, hu⟩

/-- Everything executing a command can do, with all that it writes (30_encoding.md rule R112). -/
theorem exec_leaves {i : Instr} {s t : State} (h : exec i s = .next t) : leaves i s t := by
  cases i <;> obtain rfl := Host.Outcome.next.inj h
  case nop => exact leaves_of_answer _ _
  case statusRead => exact leaves_of_answer _ _
  case timeRead => exact leaves_of_answer _ _
  case crc16 => exact leaves_of_answer _ _
  case pktSerialize => exact leaves_of_answer _ _
  case pktValidate => exact leaves_of_answer _ _
  case radioPoll => exact leaves_of_answer _ _
  case radioRssi => exact leaves_of_answer _ _
  case queueStatus => exact leaves_of_answer _ _
  case cntRead => split <;> exact leaves_of_answer _ _
  case cfgRead => split <;> exact leaves_of_answer _ _
  case statusClear => exact leaves_of_write _ _ rfl
  case pktBuild => exact leaves_of_write _ _ ⟨_, rfl⟩
  case pktDeserialize => exact leaves_of_write _ _ ⟨_, rfl⟩
  case pwrNotify => exact leaves_of_write _ _ rfl
  case cfgWrite =>
    split
    · exact leaves_of_write _ _ ⟨_, rfl⟩
    · exact leaves_of_answer _ _
  case evqPush x =>
    split <;> next hp => exact leaves_of_write _ _ (congrArg Prod.snd hp).symm
  case evqPop =>
    split
    · exact leaves_of_answer _ _
    · exact leaves_of_write _ _ ⟨_, rfl⟩
  case rxqPop =>
    split
    · exact leaves_of_answer _ _
    · exact leaves_of_write _ _ ⟨_, rfl⟩
  case pipeBuild =>
    split
    · exact leaves_of_answer _ _
    · split <;> next hp => exact leaves_of_write _ _ ⟨_, _, (congrArg Prod.snd hp).symm⟩
  case radioInit => exact leaves_of_run _ ⟨rfl, rfl⟩
  case radioSleep => exact leaves_of_run _ ⟨rfl, rfl⟩
  case radioTransmit =>
    split
    · exact leaves_of_answer _ _
    · split
      · exact leaves_of_run _ ⟨rfl, rfl⟩
      · exact leaves_of_answer _ _
  case radioReceive =>
    split
    · exact leaves_of_answer _ _
    · split
      · exact leaves_of_run _ ⟨rfl, rfl⟩
      · exact leaves_of_answer _ _
  case radioRxStart =>
    split
    · split
      · exact leaves_of_answer _ _
      · exact leaves_of_run _ ⟨rfl, rfl⟩
    · exact leaves_of_answer _ _
  case radioWake =>
    split
    · exact leaves_of_run _ ⟨.inl rfl, .inl rfl⟩
    · exact leaves_wakeToReceive (.inl rfl)
    · exact leaves_of_answer _ _
    · split
      · exact leaves_of_run _ ⟨.inl rfl, .inr rfl⟩
      · exact leaves_wakeToReceive (.inr rfl)
      · exact leaves_of_write _ _ rfl
  case pwrTick b =>
    rcases powerDecision_cases b (sampleBattery b s) with ⟨pl, h'⟩ | ⟨he, kind, h'⟩ <;> rw [h']
    · exact leaves_of_write _ _ rfl
    · exact leaves_of_run _ ⟨kind, rfl, rfl, he⟩
  case pipeSend =>
    split
    · split
      · exact leaves_of_answer _ _
      · next hq => exact leaves_of_run _ ⟨rfl, _, _, hq, rfl⟩
    · exact leaves_of_answer _ _
  case pipeRecv =>
    split
    · exact leaves_of_run _ ⟨rfl, rfl⟩
    · exact leaves_of_answer _ _

/-! ## The FIFOs stay within their capacities -/

/-- A push with room leaves a FIFO within its capacity. -/
theorem length_push_le {α : Type} {cap : Nat} {q : List α} (x : α) (h : q.length < cap) :
    (q ++ [x]).length ≤ cap := by
  rw [List.length_append]
  exact h

theorem fifosBounded_opCompleted {s : State} (h : fifosBounded s) (op : RadioOp) (r : Radio) (e : Env) :
    fifosBounded (opCompleted op r e s) := by
  cases op <;> exact h

/-- PIPE_RECV's last line queues its packet only with room for it. -/
theorem fifosBounded_deliverFrame {s : State} (h : fifosBounded s) (l : Locals) :
    fifosBounded (deliverFrame l s) := by
  rcases deliverFrame_cases l s with h' | ⟨hroom, h'⟩ | h' <;> rw [h']
  · exact h
  · exact ⟨h.1, h.2.1, length_push_le _ hroom⟩
  · exact h

/-- Of the lines of a command only PIPE_RECV's last touches a FIFO. -/
theorem fifosBounded_stepMicro {s : State} (h : fifosBounded s) (c : Instr) (k : List Micro) (m : Micro)
    (l : Locals) : progressTo fifosBounded fifosBounded (stepMicro c k m l s) := by
  rcases stepMicro_cases c k m l s with ⟨op, -, h'⟩ | h' | ⟨-, h'⟩ | ⟨-, h'⟩ | ⟨-, h'⟩ | ⟨-, h'⟩ |
    ⟨_, _, -, h'⟩ | ⟨_, -, h'⟩ | ⟨-, h'⟩ | ⟨_, -, h'⟩ <;> rw [h']
  · exact radioIssue_to (fun r e => fifosBounded_opCompleted h op r e) (fun _ _ _ _ _ _ => h)
      (fun _ _ _ _ => h) (fun _ _ _ _ => h)
  · exact h
  · exact h
  · exact h
  · exact h
  · exact h
  · exact h
  · exact h
  · exact fifosBounded_deliverFrame h l
  · exact h

theorem fifosBounded_runLines {s : State} (h : fifosBounded s) (c : Instr) (k : List Micro) (l : Locals) :
    fifosBounded (runLines c k l s) :=
  runLines_to (fun m k' l _ _ hu => fifosBounded_stepMicro hu c k' m l) (fun _ hu => hu) l s h

theorem fifosBounded_continueWith {c : Instr} {k : List Micro} {p : Progress}
    (h : progressTo fifosBounded fifosBounded p) : fifosBounded (continueWith c k p) :=
  continueWith_to (fun m k' l _ _ hu => fifosBounded_stepMicro hu c k' m l) (fun _ hu => hu) p h

/-- A reset empties the FIFOs. -/
theorem fifosBounded_resetBlock (s : State) : fifosBounded (resetBlock s) :=
  ⟨Nat.zero_le _, Nat.zero_le _, Nat.zero_le _⟩

theorem fifosBounded_resumeWait {s : State} (h : fifosBounded s) (c : Instr) (k : List Micro) (l : Locals)
    (w : Wait) : fifosBounded (resumeWait c k l w s) := by
  rcases resumeWait_cases c k l w s with ⟨op, n, -, h'⟩ | ⟨m, n, -, h'⟩ | ⟨t, -, h' | h' | h'⟩ |
    ⟨t, -, h' | h'⟩ | ⟨t, -, h' | h'⟩ <;> rw [h']
  · exact fifosBounded_continueWith (awaitReady_to (fun r e => fifosBounded_opCompleted h op r e)
      (fun _ _ _ _ => h) (fun _ _ _ => h) (fun _ _ _ => h))
  · exact fifosBounded_continueWith (awaitReadback_to (fun _ => h) (fun _ _ => h) (fun _ _ => h)
      (fun _ _ => h))
  · exact fifosBounded_runLines h c k l
  · exact fifosBounded_runLines (s := recordTxTimeout s) h c transmitTimeoutBody l
  · exact h
  · exact h
  · exact h
  · exact fifosBounded_resetBlock s
  · exact h

/-- A trigger pushes only with room. -/
theorem fifosBounded_debounceTrigger {s : State} (h : fifosBounded s) :
    fifosBounded (debounceTrigger s) := by
  rcases debounceTrigger_cases s with ⟨-, h'⟩ | ⟨-, hroom, h'⟩ | ⟨-, -, h'⟩ <;> rw [h']
  · exact h
  · exact ⟨length_push_le _ hroom, h.2⟩
  · exact h

/-- A body starts with FIFOs no longer than the command found them. -/
theorem fifosBounded_of_startsRun {i : Instr} {s u : State} {k : List Micro} (h : startsRun i s k u)
    (hs : fifosBounded s) : fifosBounded u := by
  obtain ⟨c, x, b, q, e, rfl, -, -, rfl | ⟨-, p, hq⟩⟩ := startsRun_frame h
  · exact hs
  · obtain ⟨hevq, htxq, hrxq⟩ := hs
    rw [hq] at htxq
    exact ⟨hevq, Nat.le_of_succ_le htxq, hrxq⟩

theorem fifosBounded_exec {i : Instr} {s t : State} (hs : fifosBounded s) (h : exec i s = .next t) :
    fifosBounded t := by
  rcases exec_cases i s with ⟨st, pl, u, hx, -, -, -, -, -, -, -, -, -, -, -, -, -, hu, -⟩ |
    ⟨k, l, u, hx, hu⟩
  · obtain rfl := Host.Outcome.next.inj (hx.symm.trans h)
    exact hu hs
  · obtain rfl := Host.Outcome.next.inj (hx.symm.trans h)
    exact fifosBounded_runLines (fifosBounded_of_startsRun hu hs) i k l

/-- Settles O33, agent by agent: a trigger, a command and a resumed PIPE_RECV push, each only with room. -/
theorem fifosStayBounded : Obligations.FifosStayBounded := by
  unfold Obligations.FifosStayBounded
  intro s t hs h
  refine step_keeps (fun _ _ h => h) ?read ?tick ?trigger ?rx ?tx (fun s _ => fifosBounded_resetBlock s)
    (fun i s t hs _ _ h => fifosBounded_exec (s := { s with cmdBuf := [] }) hs h) (fun _ h _ _ => h)
    (fun _ _ h _ _ _ => h) hs h
  case read =>
    intro s h
    obtain ⟨r, e, h'⟩ := hostReadStep_frame s
    rw [h']
    exact h
  case tick =>
    exact tickStep_to (fun s h => by rw [advanceClock_eq]; exact h) (fun _ h => h)
      (fun c k l w _ _ h => fifosBounded_resumeWait h c k l w)
  case trigger =>
    exact triggerStep_to (fun _ h => fifosBounded_debounceTrigger h) (fun _ _ _ _ _ _ h => h)
      (fun s _ => fifosBounded_resetBlock s)
  case rx =>
    intro f raw s h
    obtain ⟨p, r, h'⟩ := rxDoneStep_frame f raw s
    rw [h']
    exact h
  case tx =>
    intro s h
    obtain ⟨r, h'⟩ := txDoneStep_frame s
    rw [h']
    exact h

/-! ## Variant A's radio mode and the phase -/

/-- The invariant reads only the parameters, the phase and the radio mode. -/
theorem variantAModes_congr {s t : State} (hpar : t.par = s.par) (hphase : t.phase = s.phase)
    (hmode : t.radioMode = s.radioMode) (hs : variantAModes s) : variantAModes t := by
  unfold variantAModes
  rw [hpar, hphase, hmode]
  exact hs

theorem variantAModes_idle_iff {s : State} (hp : s.phase = .idle) :
    variantAModes s ↔ (s.par.variant = .A → s.radioMode ≠ .transmitting) := by
  simp only [variantAModes, hp]

theorem variantAModes_sleep_iff {s : State} {c : Instr} {k : List Micro} {l : Locals} {kind : SleepKind}
    {start : Word} (hp : s.phase = .running c k l (.sleep kind start)) :
    variantAModes s ↔ (s.par.variant = .A → s.radioMode ≠ .transmitting) := by
  simp only [variantAModes, hp]

theorem variantAModes_tx_iff {s : State} {c : Instr} {k : List Micro} {l : Locals} {start : Word}
    (hp : s.phase = .running c k l (.tx start)) :
    variantAModes s ↔ (s.par.variant = .A → s.radioMode = .transmitting ∧ k = transmitDoneBody) := by
  simp only [variantAModes, hp]

/-- No busy wait exists in variant A. -/
theorem variantAModes_not_busy {s : State} {c : Instr} {k : List Micro} {l : Locals} {w : Wait}
    (hs : variantAModes s) (hA : s.par.variant = .A) (hp : s.phase = .running c k l w) :
    (∀ op n, w ≠ .ready op n) ∧ ∀ m n, w ≠ .readback m n := by
  have h := hs hA
  rw [hp] at h
  constructor
  · rintro op n rfl
    exact h
  · rintro m n rfl
    exact h

/-- The invariant asks nothing of variant B. -/
theorem variantAModes_of_variantB {s : State} (hB : s.par.variant = .B) : variantAModes s := by
  intro hA
  rw [hB] at hA
  cases hA

/-- Whether the lines, run in variant A from radio mode `mode`, come to the transmit wait only in Transmitting
with `transmitDoneBody` to follow, and end or sleep only outside Transmitting. A `SetMode` completes at once
(42_transceiver.md rules R193, R195). -/
def linesKeepModes : RadioMode → List Micro → Bool
  | mode, [] => decide (mode ≠ .transmitting)
  | mode, m :: k =>
    match m with
    | .radio (.setMode m) => linesKeepModes (modeAfter m) k
    | .toStandby => linesKeepModes .standby k
    | .radio _ | .configure | .writePayload | .setConfigured | .takeFrame _ => linesKeepModes mode k
    | .failAbsent => decide (mode ≠ .transmitting) && linesKeepModes mode k
    | .txWait => decide (mode = .transmitting ∧ k = transmitDoneBody)
    | .failTimeout | .respondFrame | .deliver | .respondOk | .enterSleep _ =>
      decide (mode ≠ .transmitting)

/-- Variant A about to run the lines `k`, which keep its modes. -/
def aboutToRun (k : List Micro) (s : State) : Prop :=
  s.par.variant = .A ∧ linesKeepModes s.radioMode k = true

/-- A radio op in variant A completes (42_transceiver.md rule R193). -/
theorem aboutToRun_radioIssue {s : State} {k : List Micro} (op : RadioOp) (hA : s.par.variant = .A)
    (hk : ∀ r e, linesKeepModes (opCompleted op r e s).radioMode k = true) (c : Instr) (l : Locals) :
    progressTo (aboutToRun k) variantAModes (radioIssue c k l op s) := by
  have notB : ∀ {p : Prop}, s.par.variant = .B → p := fun hB => by rw [hA] at hB; cases hB
  refine radioIssue_to (fun r e => ⟨?_, hk r e⟩) (fun _ _ _ hB _ _ => notB hB) (fun _ _ hB _ => notB hB)
    (fun _ _ hB _ => notB hB)
  cases op <;> exact hA

/-- One line goes on to lines that keep the modes, or stops where the invariant holds. -/
theorem aboutToRun_stepMicro {s : State} {m : Micro} {k : List Micro} (h : aboutToRun (m :: k) s)
    (c : Instr) (l : Locals) : progressTo (aboutToRun k) variantAModes (stepMicro c k m l s) := by
  obtain ⟨hA, hk⟩ := h
  have ends : ∀ {t : State}, t.phase = .idle → t.radioMode = s.radioMode →
      decide (s.radioMode ≠ .transmitting) = true → variantAModes t := fun hp hm h =>
    (variantAModes_idle_iff hp).2 fun _ => hm ▸ of_decide_eq_true h
  cases m with
  | radio op => exact aboutToRun_radioIssue op hA (fun _ _ => by cases op <;> exact hk) c l
  | configure => exact aboutToRun_radioIssue (k := k) (.configure _) hA (fun _ _ => hk) c l
  | writePayload => exact aboutToRun_radioIssue (k := k) (.writePayload _) hA (fun _ _ => hk) c l
  | toStandby =>
    rw [stepMicro_toStandby]
    split
    · next hm => exact ⟨hA, by rw [hm]; exact hk⟩
    · exact aboutToRun_radioIssue (.setMode .standby) hA (fun _ _ => hk) c l
  | failAbsent =>
    obtain ⟨hm, hk⟩ := (Bool.and_eq_true _ _).mp hk
    simp only [stepMicro]
    split
    · exact ⟨hA, hk⟩
    · exact ends rfl rfl hm
  | setConfigured => exact ⟨hA, hk⟩
  | takeFrame n => exact ⟨hA, hk⟩
  | txWait => exact (variantAModes_tx_iff rfl).2 fun _ => of_decide_eq_true hk
  | failTimeout => exact ends rfl rfl hk
  | respondFrame => exact ends rfl rfl hk
  | respondOk => exact ends rfl rfl hk
  | deliver =>
    rcases deliverFrame_cases l s with h' | ⟨-, h'⟩ | h' <;>
      exact ends (by rw [h']; rfl) (by rw [h']; rfl) hk
  | enterSleep kind => exact (variantAModes_sleep_iff rfl).2 fun _ => of_decide_eq_true hk

/-- A run of lines that keep variant A's modes ends or suspends where the invariant holds. -/
theorem variantAModes_runLines {s : State} {k : List Micro}
    (hk : s.par.variant = .A → linesKeepModes s.radioMode k = true) (c : Instr) (l : Locals) :
    variantAModes (runLines c k l s) := by
  cases hv : s.par.variant with
  | B => exact variantAModes_of_variantB (by rw [(outsideRun_eq (outsideRun_runLines c k l s)).1, hv])
  | A =>
    refine runLines_induction (P := fun k _ s => aboutToRun k s) (Q := variantAModes) ?_ ?_ ?_ k l s
      ⟨hv, hk hv⟩
    · intro k m l s l' s' h hm
      have := aboutToRun_stepMicro h c l
      rwa [hm] at this
    · intro k m l s s' h hm
      have := aboutToRun_stepMicro h c l
      rwa [hm] at this
    · rintro l s ⟨-, h⟩
      exact (variantAModes_idle_iff rfl).2 fun _ => of_decide_eq_true h

/-- Every command's body keeps the modes from every mode but Transmitting. -/
theorem startsRun_keepsModes {i : Instr} {s u : State} {k : List Micro} (h : startsRun i s k u)
    {mode : RadioMode} (hm : mode ≠ .transmitting) : linesKeepModes mode k = true := by
  cases i with
  | radioInit =>
    obtain ⟨rfl, -⟩ := h
    exact (Bool.and_eq_true _ _).mpr ⟨decide_eq_true hm, rfl⟩
  | radioTransmit d => obtain ⟨rfl, -⟩ := h; rfl
  | radioReceive m => obtain ⟨rfl, -⟩ := h; rfl
  | radioSleep => obtain ⟨rfl, -⟩ := h; rfl
  | radioWake => obtain ⟨rfl | rfl, -⟩ := h <;> rfl
  | radioRxStart => obtain ⟨rfl, -⟩ := h; rfl
  | pwrTick b => obtain ⟨kind, rfl, -⟩ := h; rfl
  | pipeSend => obtain ⟨rfl, -⟩ := h; rfl
  | pipeRecv => obtain ⟨rfl, -⟩ := h; rfl
  | _ => exact h.elim

/-- A command that begins at an Idle port: its body starts in the mode it found. -/
theorem variantAModes_exec {i : Instr} {s t : State} (hs : variantAModes s) (hp : s.phase = .idle)
    (h : exec i s = .next t) : variantAModes t := by
  rw [variantAModes_idle_iff hp] at hs
  rcases exec_cases i s with ⟨st, pl, u, hx, hpar, -, -, -, -, -, -, hmode, -⟩ | ⟨k, l, u, hx, hu⟩
  · obtain rfl := Host.Outcome.next.inj (hx.symm.trans h)
    refine (variantAModes_idle_iff rfl).2 fun hA => ?_
    rw [respond_par, hpar] at hA
    rw [respond_radioMode, hmode]
    exact hs hA
  · obtain rfl := Host.Outcome.next.inj (hx.symm.trans h)
    refine variantAModes_runLines (fun hA => startsRun_keepsModes hu ?_) i l
    obtain ⟨_, _, _, _, _, rfl, -⟩ := startsRun_frame hu
    exact hs hA

theorem variantAModes_resetBlock (s : State) : variantAModes (resetBlock s) :=
  (variantAModes_idle_iff rfl).2 fun _ => RadioMode.noConfusion

/-- The evaluation of a wait writes no parameter. -/
theorem resumeWait_par (c : Instr) (k : List Micro) (l : Locals) (w : Wait) (s : State) :
    (resumeWait c k l w s).par = s.par := by
  rcases resumeWait_writes c k l w s with ⟨_, -, -, h⟩ | ⟨_, -, h⟩ | ⟨_, -, h, -⟩
  · rw [h]; rfl
  · rw [h]; rfl
  · exact (outsideRun_eq h).1

/-- The evaluation of a wait: the transmit wait ends by running `transmitDoneBody` or
`transmitTimeoutBody`, both of which leave Transmitting. -/
theorem variantAModes_resumeWait {c : Instr} {k : List Micro} {l : Locals} {w : Wait} {s : State}
    (hp : s.phase = .running c k l w) (hs : variantAModes s) : variantAModes (resumeWait c k l w s) := by
  cases hv : s.par.variant with
  | B => exact variantAModes_of_variantB (by rw [resumeWait_par, hv])
  | A =>
    obtain ⟨notReady, notReadback⟩ := variantAModes_not_busy hs hv hp
    rcases resumeWait_cases c k l w s with ⟨op, n, hw, -⟩ | ⟨m, n, hw, -⟩ | ⟨t, hw, h'⟩ |
      ⟨t, hw, h' | h'⟩ | ⟨t, -, h' | h'⟩
    · exact absurd hw (notReady op n)
    · exact absurd hw (notReadback m n)
    · subst hw
      obtain ⟨-, rfl⟩ := (variantAModes_tx_iff hp).1 hs hv
      rcases h' with h' | h' | h' <;> rw [h']
      · exact variantAModes_runLines (fun _ => rfl) c l
      · exact variantAModes_runLines (fun _ => rfl) c l
      · exact hs
    · subst hw
      rw [h']
      exact (variantAModes_idle_iff rfl).2 ((variantAModes_sleep_iff hp).1 hs)
    · rw [h']; exact hs
    · rw [h']; exact variantAModes_resetBlock s
    · rw [h']; exact hs

/-- Settles O45, agent by agent: only a command and the end of a wait write the phase or the mode. -/
theorem variantAModesKept : Obligations.VariantAModesKept := by
  unfold Obligations.VariantAModesKept
  intro s t hs h
  refine step_keeps (fun _ _ h => h) ?read ?tick ?trigger ?rx ?tx (fun s _ => variantAModes_resetBlock s)
    (fun i s t hs hp _ h => variantAModes_exec (s := { s with cmdBuf := [] }) hs hp h) ?illegal
    (fun _ _ h _ _ _ => h) hs h
  case read =>
    intro s
    obtain ⟨r, e, h'⟩ := hostReadStep_frame s
    rw [h']
    exact variantAModes_congr rfl rfl rfl
  case tick =>
    exact tickStep_to (fun s => by rw [advanceClock_eq]; exact variantAModes_congr rfl rfl rfl) (fun _ h => h)
      (fun _ _ _ _ _ hp => variantAModes_resumeWait hp)
  case trigger =>
    refine triggerStep_to ?_ ?_ (fun s _ => variantAModes_resetBlock s)
    · intro s
      rcases debounceTrigger_cases s with ⟨-, h'⟩ | ⟨-, -, h'⟩ | ⟨-, -, h'⟩ <;> rw [h'] <;>
        exact variantAModes_congr rfl rfl rfl
    · intro c k l t s hp hs
      exact (variantAModes_idle_iff rfl).2 ((variantAModes_sleep_iff hp).1 hs)
  case rx =>
    intro f raw s
    obtain ⟨p, r, h'⟩ := rxDoneStep_frame f raw s
    rw [h']
    exact variantAModes_congr rfl rfl rfl
  case tx =>
    intro s
    obtain ⟨r, h'⟩ := txDoneStep_frame s
    rw [h']
    exact variantAModes_congr rfl rfl rfl
  case illegal =>
    intro s hs hp _
    exact (variantAModes_idle_iff rfl).2 ((variantAModes_idle_iff hp).1 hs)

/-! ## STATUS_READ -/

/-- Bits 9:8 of STATUS are the code of the radio mode (10_state.md rule R33). -/
theorem statusWord_modeField (s : State) :
    (statusWord s).extractLsb' 8 2 = (modeCode s.radioMode).setWidth 2 := by
  refine BitVec.eq_of_getLsbD_eq fun i hi => ?_
  rw [BitVec.getLsbD_extractLsb', statusWord_getLsbD, BitVec.getLsbD_setWidth]
  have : i = 0 ∨ i = 1 := by omega
  rcases this with rfl | rfl <;> simp

/-- Bits 11:10 of STATUS are the code of the power state (10_state.md rule R33). -/
theorem statusWord_pwrField (s : State) :
    (statusWord s).extractLsb' 10 2 = (pwrCode s.pwrState).setWidth 2 := by
  refine BitVec.eq_of_getLsbD_eq fun i hi => ?_
  rw [BitVec.getLsbD_extractLsb', statusWord_getLsbD, BitVec.getLsbD_setWidth]
  have : i = 0 ∨ i = 1 := by omega
  rcases this with rfl | rfl <;> simp

/-- A field of two bits in the high byte of a word. -/
theorem highByte_field (v : Half) {j : Nat} (hj : j + 2 ≤ 8) :
    (v.extractLsb' 8 8).extractLsb' j 2 = v.extractLsb' (8 + j) 2 := by
  refine BitVec.eq_of_getLsbD_eq fun i hi => ?_
  rw [BitVec.getLsbD_extractLsb', BitVec.getLsbD_extractLsb', BitVec.getLsbD_extractLsb', Nat.add_assoc,
    decide_eq_true (show j + i < 8 by omega), Bool.true_and]

/-- The mode code 2 is Transmitting's alone. -/
theorem modeCode_field_eq_two {m : RadioMode} (h : (modeCode m).setWidth 2 = 2#2) : m = .transmitting := by
  cases m with
  | transmitting => rfl
  | _ => exact absurd h (by decide)

/-- Settles O24: at an Idle port the power state is Active, code 0, and variant A is not Transmitting. -/
theorem statusReadsNoTransientMode : Obligations.StatusReadsNoTransientMode := by
  unfold Obligations.StatusReadsNoTransientMode
  intro s hp hpwr
  refine ⟨(statusWord s).extractLsb' 8 8, (statusWord s).extractLsb' 0 8, rfl, ?_, fun hA hmode h2 => ?_⟩
  · have hactive : s.pwrState = .active := by rw [hpwr, hp]; rfl
    rw [highByte_field _ (by decide), statusWord_pwrField, hactive]
    rfl
  · rw [highByte_field _ (by decide), statusWord_modeField] at h2
    exact (variantAModes_idle_iff hp).1 hmode hA (modeCode_field_eq_two h2)

/-! ## Which command writes what -/

/-- Settles O56: what an answer writes is `answersBy`; what a body writes is `linesWrote` of its lines, and
`startsRun_lines` says which commands run which lines. -/
theorem commandsWriteOnlyTheirRegisters : Obligations.CommandsWriteOnlyTheirRegisters := by
  unfold Obligations.CommandsWriteOnlyTheirRegisters
  intro i s t h
  rcases exec_leaves h with ⟨st, pl, u, rfl, rfl | hu⟩ | ⟨k, l, u, rfl, hu⟩
  · simp
  · cases i with
    | statusClear mask => obtain rfl := hu; simp [instrOpcode]
    | cfgWrite idx val => obtain ⟨r, rfl⟩ := hu; simp [instrOpcode]
    | pktBuild n ts e b => obtain ⟨p, rfl⟩ := hu; simp [instrOpcode]
    | pktDeserialize f => obtain ⟨p, rfl⟩ := hu; simp [instrOpcode]
    | radioWake => obtain rfl := hu; simp
    | pwrNotify => obtain rfl := hu; simp [instrOpcode]
    | pwrTick b =>
      obtain rfl := hu
      rcases sampleBattery_cases b s with ⟨-, h'⟩ | ⟨-, h'⟩ <;> simp [h', instrOpcode]
    | evqPush x =>
      obtain rfl := hu
      rcases pushEvq_cases x s with ⟨-, h'⟩ | ⟨-, h'⟩ <;> simp [h', instrOpcode]
    | evqPop => obtain ⟨q, rfl⟩ := hu; simp [instrOpcode]
    | pipeBuild b =>
      obtain ⟨p, q, rfl⟩ := hu
      rcases pushTxq_cases p (notify { s with evq := q }) with ⟨-, h'⟩ | ⟨-, h'⟩ <;> simp [h', instrOpcode]
    | rxqPop => obtain ⟨q, rfl⟩ := hu; simp [instrOpcode]
    | _ => exact hu.elim
  · obtain ⟨hradio, htake, hset, hsleep, hdeliver⟩ := startsRun_lines hu
    obtain ⟨par, pkt, now, activity, accept, any, ext, batt, grace, cfg, evqDrop, txqDrop, evq, txq, buf, -⟩ :=
      outsideRun_eq (outsideRun_runLines i k l u)
    obtain ⟨rssi, conf, pwr, recv, timeout, -, -⟩ := runLines_writes i k l u
    have fault := runLines_transportFault i k l u
    obtain ⟨c, x, b, q, e, rfl, hconf, hbatt, htxq⟩ := startsRun_frame hu
    refine ⟨par, now, grace, accept, any, buf, (absurd pkt ·), (absurd cfg ·),
      fun h => htake (rssi.resolve_left h), (absurd activity ·), ?power, ?conf,
      fun _ => hradio, (absurd evq ·), ?txq, ?rxq, ?crcErr, (absurd evqDrop ·), (absurd txqDrop ·),
      ?rxqDrop, fun h => .inr ⟨hradio, fault.resolve_left h⟩, (absurd timeout ·), ?crcErrSeen, ?overflow⟩
    case power =>
      rcases hbatt with ⟨rfl, rfl⟩ | htick
      · exact fun h => hsleep (pwr.resolve_left ((h.resolve_left (absurd ext)).resolve_left (absurd batt)))
      · exact fun _ => htick
    case conf =>
      rcases hconf with rfl | hinit
      · exact fun h => hset (conf.resolve_left h)
      · exact fun _ => hinit
    case txq =>
      rcases htxq with rfl | ⟨hsend, -⟩
      · exact (absurd txq ·)
      · exact fun _ => .inr hsend
    case rxq => exact fun h => .inl (hdeliver (recv.resolve_left fun ⟨rxq, _⟩ => h rxq))
    case crcErr =>
      exact fun h => hdeliver (recv.resolve_left fun ⟨_, hcnt, _⟩ => h (congrArg (·.crcErr) hcnt))
    case rxqDrop =>
      exact fun h => hdeliver (recv.resolve_left fun ⟨_, hcnt, _⟩ => h (congrArg (·.rxqDrop) hcnt))
    case crcErrSeen => exact fun h => .inr (hdeliver (recv.resolve_left fun ⟨_, _, seen, _⟩ => h seen))
    case overflow =>
      exact fun h => .inr (.inr (.inr (hdeliver (recv.resolve_left fun ⟨_, _, _, seen⟩ => h seen))))

/-! ## Counters and sticky bits -/

/-- No counter and no sticky bit is lost from `s` to `t`. -/
def recordsGrow (s t : State) : Prop := countersGrow s t ∧ stickyKept s t

theorem recordsGrow_of_eq {s t : State} (hc : t.counters = s.counters) (hs : t.sticky = s.sticky) :
    recordsGrow s t := by
  unfold recordsGrow countersGrow stickyKept
  rw [hc, hs]
  exact ⟨⟨.inl rfl, .inl rfl, .inl rfl, .inl rfl⟩, id, id, id, id⟩

theorem recordsGrow_dropEvq (s : State) : recordsGrow s (dropEvq s) :=
  ⟨⟨.inl rfl, .inr rfl, .inl rfl, .inl rfl⟩, id, id, id, fun _ => rfl⟩

theorem recordsGrow_dropTxq (s : State) : recordsGrow s (dropTxq s) :=
  ⟨⟨.inl rfl, .inl rfl, .inr rfl, .inl rfl⟩, id, id, id, fun _ => rfl⟩

/-- What was already set before the transmit timeout was recorded is kept after it. -/
theorem recordsGrow_of_recordTxTimeout {s t : State} (h : recordsGrow (recordTxTimeout s) t) :
    recordsGrow s t := by
  obtain ⟨hc, hfault, htimeout, hcrc, hoverflow⟩ := h
  exact ⟨hc, hfault, fun _ => htimeout rfl, hcrc, hoverflow⟩

/-- Of the commands that answer at once, EVQ_PUSH and PIPE_BUILD may record a drop, and STATUS_CLEAR clears
sticky bits. -/
theorem answersBy_records {i : Instr} {s u : State} (h : answersBy i s u) :
    countersGrow s u ∧ (instrOpcode i ≠ .statusClear → stickyKept s u) := by
  have grows : recordsGrow s u → countersGrow s u ∧ (instrOpcode i ≠ .statusClear → stickyKept s u) :=
    fun h => ⟨h.1, fun _ => h.2⟩
  cases i with
  | statusClear mask =>
    obtain rfl := h
    exact ⟨⟨.inl rfl, .inl rfl, .inl rfl, .inl rfl⟩, fun hne => absurd rfl hne⟩
  | cfgWrite idx val => obtain ⟨r, rfl⟩ := h; exact grows (recordsGrow_of_eq rfl rfl)
  | pktBuild n ts e b => obtain ⟨p, rfl⟩ := h; exact grows (recordsGrow_of_eq rfl rfl)
  | pktDeserialize f => obtain ⟨p, rfl⟩ := h; exact grows (recordsGrow_of_eq rfl rfl)
  | radioWake => obtain rfl := h; exact grows (recordsGrow_of_eq rfl rfl)
  | pwrNotify => obtain rfl := h; exact grows (recordsGrow_of_eq rfl rfl)
  | pwrTick b =>
    obtain rfl := h
    rcases sampleBattery_cases b s with ⟨-, h'⟩ | ⟨-, h'⟩ <;> rw [h'] at grows ⊢ <;>
      exact grows (recordsGrow_of_eq rfl rfl)
  | evqPush x =>
    obtain rfl := h
    rcases pushEvq_cases x s with ⟨-, h'⟩ | ⟨-, h'⟩ <;> rw [h'] at grows ⊢
    · exact grows (recordsGrow_of_eq rfl rfl)
    · exact grows (recordsGrow_dropEvq s)
  | evqPop => obtain ⟨q, rfl⟩ := h; exact grows (recordsGrow_of_eq rfl rfl)
  | pipeBuild b =>
    obtain ⟨p, q, rfl⟩ := h
    rcases pushTxq_cases p (notify { s with evq := q }) with ⟨-, h'⟩ | ⟨-, h'⟩ <;> rw [h'] at grows ⊢
    · exact grows (recordsGrow_of_eq rfl rfl)
    · exact grows (recordsGrow_dropTxq (notify { s with evq := q }))
  | rxqPop => obtain ⟨q, rfl⟩ := h; exact grows (recordsGrow_of_eq rfl rfl)
  | _ => exact h.elim

/-- A command adds at most 1 to a counter, and only STATUS_CLEAR clears a sticky bit. -/
theorem exec_records {i : Instr} {s t : State} (h : exec i s = .next t) :
    countersGrow s t ∧ (instrOpcode i ≠ .statusClear → stickyKept s t) := by
  rcases exec_leaves h with ⟨st, pl, u, rfl, rfl | hu⟩ | ⟨k, l, u, rfl, hu⟩
  · obtain ⟨hc, hs⟩ := recordsGrow_of_eq (respond_counters st pl u) (respond_sticky st pl u)
    exact ⟨hc, fun _ => hs⟩
  · exact (answersBy_records hu :)
  · obtain ⟨-, -, -, -, -, hc, hs⟩ := runLines_writes i k l u
    obtain ⟨_, _, _, _, _, rfl, -⟩ := startsRun_frame hu
    exact ⟨hc, fun _ => hs⟩

/-- The evaluation of a wait that does not end in a reset. -/
theorem recordsGrow_resumeWait (c : Instr) (k : List Micro) (l : Locals) (w : Wait) {s : State}
    (hdeep : ∀ start, w = .sleep .deep start → elapsedMs start s < s.par.deepSleepMaxMs) :
    recordsGrow s (resumeWait c k l w s) := by
  rcases resumeWait_writes c k l w s with ⟨start, hw, hmax, -⟩ | ⟨start, -, h⟩ |
    ⟨u, rfl | rfl, -, -, -, -, -, -, hc, hs⟩
  · exact absurd (hdeep start hw) (Nat.not_lt.2 hmax)
  · rw [h]
    exact recordsGrow_of_eq rfl rfl
  · exact ⟨hc, hs⟩
  · exact recordsGrow_of_recordTxTimeout ⟨hc, hs⟩

/-- A tick that does not reset the block. -/
theorem recordsGrow_tickStep {s : State}
    (hdeep : ∀ c k l start, s.phase = .running c k l (.sleep .deep start) →
      (s.nowMs + 1 - start).toNat < s.par.deepSleepMaxMs) : recordsGrow s (tickStep s) := by
  have hclock : (advanceClock s).counters = s.counters ∧ (advanceClock s).sticky = s.sticky := by
    rw [advanceClock_eq]
    exact ⟨rfl, rfl⟩
  cases hp : s.phase with
  | idle =>
    rw [tickStep_idle hp]
    exact recordsGrow_of_eq hclock.1 hclock.2
  | running c k l w =>
    rw [tickStep_running hp]
    have h := recordsGrow_resumeWait c k l w (s := advanceClock s) fun start hw => by
      rw [elapsedMs, advanceClock_nowMs, advanceClock_par]
      exact hdeep c k l start (by rw [hp, hw])
    unfold recordsGrow countersGrow stickyKept at h ⊢
    rwa [hclock.1, hclock.2] at h

/-- A trigger may record a drop. -/
theorem recordsGrow_debounceTrigger (s : State) : recordsGrow s (debounceTrigger s) := by
  rcases debounceTrigger_cases s with ⟨-, h⟩ | ⟨-, -, h⟩ | ⟨-, -, h⟩ <;> rw [h]
  · exact recordsGrow_of_eq rfl rfl
  · exact recordsGrow_of_eq rfl rfl
  · exact recordsGrow_dropEvq { s with lastAcceptMs := s.nowMs, anyAccepted := true }

/-- A trigger step that does not reset the block. -/
theorem recordsGrow_triggerStep {s : State}
    (hdeep : ∀ c k l start, s.phase ≠ .running c k l (.sleep .deep start)) :
    recordsGrow s (triggerStep s) := by
  unfold triggerStep
  split
  · next hp => exact absurd hp (hdeep _ _ _ _)
  · exact recordsGrow_debounceTrigger (lightWake 0x02 s)
  · exact recordsGrow_debounceTrigger s

/-- A host write executes the command it begins, or touches neither a counter nor a sticky bit. -/
theorem hostWriteStep_begins {s u t : State} (hd : drawStep s = (.hostWrite, u))
    (h : hostWriteStep u = .next t) :
    (∃ i e, commandBegun s = some i ∧ exec i { u with cmdBuf := [], env := e } = .next t) ∨
      (t.counters = u.counters ∧ t.sticky = u.sticky) := by
  obtain ⟨b, e, hb⟩ := drawHostByte_frame u
  unfold hostWriteStep at h
  by_cases hp : portAccepts u = true
  · rw [if_pos hp, hb] at h
    rcases acceptByte_cases b { u with env := e } with ⟨hc, i, rest, hdec, hx⟩ | ⟨-, -, hx⟩ | ⟨-, hx⟩
    · refine .inl ⟨i, e, ?_, hx.symm.trans h⟩
      have hc' : complete (u.cmdBuf ++ [b]) = true := hc
      have hdec' : decode (u.cmdBuf ++ [b]) = .ok (i, rest) := hdec
      simp only [commandBegun, hd, hb, hp, hc', hdec', Bool.and_self, if_true]
    · obtain rfl := Host.Outcome.next.inj (hx.symm.trans h)
      exact .inr ⟨rfl, rfl⟩
    · obtain rfl := Host.Outcome.next.inj (hx.symm.trans h)
      exact .inr ⟨rfl, rfl⟩
  · rw [if_neg hp] at h
    obtain rfl := Host.Outcome.next.inj h
    exact .inr ⟨rfl, rfl⟩

/-- STATUS_CLEAR is the only command of its opcode. -/
theorem eq_statusClear_of_opcode {i : Instr} (h : instrOpcode i = .statusClear) :
    ∃ mask, i = .statusClear mask := by
  cases i with
  | statusClear mask => exact ⟨mask, rfl⟩
  | _ => cases h

/-- Settles O57, agent by agent; a step that is not a command's and not a reset loses nothing. -/
theorem countersAndStickyBitsGrow : Obligations.CountersAndStickyBitsGrow := by
  unfold Obligations.CountersAndStickyBitsGrow
  refine ⟨fun i s t h => exec_records h, fun s t hreset h => ?_⟩
  obtain ⟨a, e, hd⟩ := drawStep_frame s
  rw [step_of_draw hd] at h
  have grows : recordsGrow s t →
      countersGrow s t ∧ ((∀ mask, commandBegun s ≠ some (.statusClear mask)) → stickyKept s t) :=
    fun h => ⟨h.1, fun _ => h.2⟩
  cases a with
  | hostWrite =>
    rcases hostWriteStep_begins hd h with ⟨i, e', hi, hx⟩ | ⟨hc, hs⟩
    · obtain ⟨hc, hs⟩ := exec_records hx
      refine ⟨hc, fun hclear => hs fun hop => ?_⟩
      obtain ⟨mask, rfl⟩ := eq_statusClear_of_opcode hop
      exact hclear mask hi
    · exact grows (recordsGrow_of_eq hc hs)
  | hostRead =>
    obtain rfl := Host.Outcome.next.inj h
    obtain ⟨_, _, h'⟩ := hostReadStep_frame { s with env := e }
    rw [h'] at grows ⊢
    exact grows (recordsGrow_of_eq rfl rfl)
  | tick =>
    obtain rfl := Host.Outcome.next.inj h
    refine grows (recordsGrow_tickStep (s := { s with env := e }) fun c k l start hp => ?_)
    have hp' : s.phase = .running c k l (.sleep .deep start) := hp
    simpa [resetsNext, hd, hp'] using hreset
  | trigger =>
    obtain rfl := Host.Outcome.next.inj h
    refine grows (recordsGrow_triggerStep (s := { s with env := e }) fun c k l start hp => ?_)
    have hp' : s.phase = .running c k l (.sleep .deep start) := hp
    simp [resetsNext, hd, hp'] at hreset
  | rxDone f raw =>
    obtain rfl := Host.Outcome.next.inj h
    obtain ⟨_, _, h'⟩ := rxDoneStep_frame f raw { s with env := e }
    rw [h'] at grows ⊢
    exact grows (recordsGrow_of_eq rfl rfl)
  | txDone =>
    obtain rfl := Host.Outcome.next.inj h
    obtain ⟨_, h'⟩ := txDoneStep_frame { s with env := e }
    rw [h'] at grows ⊢
    exact grows (recordsGrow_of_eq rfl rfl)
  | powerOnReset => simp [resetsNext, hd] at hreset

end Sys2Proof.Proofs.StateElements
end

section
/-! PROOFS. The atomic steps of 20_memory.md: which registers each agent's step writes, the exact effect of
the steps that run no command (rules R86, R87), which steps issue no radio op (rule R95), and the commands
that only read (rule R88). -/

namespace Sys2Proof.Proofs.AgentSteps

open Sys2Proof Sys2Proof.Machine Sys2Proof.Proofs.StateElements

/-! ## Steps that do not reset -/

/-- A tick that does not reset the block finds the DeepSleep wait, if it is in one, below its maximum
(43_power.md rule R258). -/
theorem deepSleep_holds_of_tick {s u : State} (hd : drawStep s = (.tick, u)) (hreset : resetsNext s = false)
    {c : Instr} {k : List Micro} {l : Locals} {start : Word}
    (hp : s.phase = .running c k l (.sleep .deep start)) :
    (s.nowMs + 1 - start).toNat < s.par.deepSleepMaxMs := by
  simpa [resetsNext, hd, hp] using hreset

/-- A trigger that does not reset the block finds it outside the DeepSleep wait. -/
theorem not_deepSleep_of_trigger {s u : State} (hd : drawStep s = (.trigger, u))
    (hreset : resetsNext s = false) (c : Instr) (k : List Micro) (l : Locals) (start : Word) :
    s.phase ≠ .running c k l (.sleep .deep start) := by
  intro hp
  simp [resetsNext, hd, hp] at hreset

/-- The reset input resets. -/
theorem resetsNext_of_powerOnReset {s u : State} (hd : drawStep s = (.powerOnReset, u)) :
    resetsNext s = true := by
  simp [resetsNext, hd]

/-! ## What each agent's step writes -/

/-- A host write, whether or not it begins a command, writes neither the parameters, the time base, the grace
latch nor the debounce registers. -/
theorem hostWriteStep_frame {s t : State} (h : hostWriteStep s = .next t) :
    t.par = s.par ∧ t.nowMs = s.nowMs ∧ t.graceDone = s.graceDone ∧ t.lastAcceptMs = s.lastAcceptMs ∧
      t.anyAccepted = s.anyAccepted := by
  rcases hostWriteStep_cases s with ⟨-, b, e, hw⟩ | ⟨-, hw⟩
  · rcases acceptByte_cases b { s with env := e } with ⟨-, i, -, -, hx⟩ | ⟨-, -, hx⟩ | ⟨-, hx⟩
    · obtain ⟨par, now, grace, accept, any, -⟩ :=
        commandsWriteOnlyTheirRegisters i _ t (hx.symm.trans (hw.symm.trans h))
      exact ⟨par, now, grace, accept, any⟩
    · obtain rfl := Host.Outcome.next.inj (hx.symm.trans (hw.symm.trans h))
      exact ⟨rfl, rfl, rfl, rfl, rfl⟩
    · obtain rfl := Host.Outcome.next.inj (hx.symm.trans (hw.symm.trans h))
      exact ⟨rfl, rfl, rfl, rfl, rfl⟩
  · obtain rfl := Host.Outcome.next.inj (hw.symm.trans h)
    exact ⟨rfl, rfl, rfl, rfl, rfl⟩

/-- Debounce and push write the debounce registers, the event FIFO, and the record of a drop. -/
theorem debounceTrigger_frame (s : State) :
    ∃ accept any q drops st, debounceTrigger s =
      { s with lastAcceptMs := accept, anyAccepted := any, evq := q,
               counters := { s.counters with evqDrop := drops }, sticky := st } := by
  rcases debounceTrigger_cases s with ⟨-, h⟩ | ⟨-, -, h⟩ | ⟨-, -, h⟩ <;> rw [h] <;>
    exact ⟨_, _, _, _, _, rfl⟩

/-- A trigger step outside the DeepSleep wait: debounce and push, after a wake from LightSleep or alone. -/
theorem triggerStep_cases {s : State}
    (hdeep : ∀ c k l start, s.phase ≠ .running c k l (.sleep .deep start)) :
    triggerStep s = debounceTrigger s ∨
      sleepingIn s.phase = some .light ∧ triggerStep s = debounceTrigger (lightWake 0x02 s) := by
  unfold triggerStep
  split
  · next hp => exact absurd hp (hdeep _ _ _ _)
  · next hp => exact .inr ⟨by rw [hp]; rfl, rfl⟩
  · exact .inl rfl

/-- What the lines `k` of a command can have written to its registers from `s` to `t`: the elements that no
line writes are as they were, and an element that only one kind of line writes has changed only if such a line
stands in `k`. -/
def registersWritten (k : List Micro) (s t : State) : Prop :=
  outsideRun t = outsideRun s ∧
  (t.configured = s.configured ∨ .setConfigured ∈ k) ∧
  (t.lastRssi = s.lastRssi ∨ ∃ m, .takeFrame m ∈ k) ∧
  (t.rxq = s.rxq ∧ t.counters = s.counters ∨ .deliver ∈ k) ∧
  (t.pwrState = s.pwrState ∨ ∃ kind, .enterSleep kind ∈ k)

/-- The transmit timeout's sticky bit is no register of `registersWritten`. -/
theorem registersWritten_of_linesWrote {k : List Micro} {s u t : State}
    (hu : u = s ∨ u = recordTxTimeout s) (hout : outsideRun t = outsideRun s) (h : linesWrote k u t) :
    registersWritten k s t := by
  obtain ⟨rssi, conf, pwr, recv, -⟩ := h
  have recv' : t.rxq = u.rxq ∧ t.counters = u.counters ∨ .deliver ∈ k :=
    recv.imp_left fun ⟨rxq, counters, _⟩ => ⟨rxq, counters⟩
  obtain rfl | rfl := hu <;> exact ⟨hout, conf, rssi, recv', pwr⟩

/-- A tick that does not reset the block: the timer fallback wakes it from LightSleep; or the clock advances,
alone where no command is suspended, and then the lines that a suspended command has still to run write what
their kinds may (20_memory.md rule R87). -/
theorem tickStep_cases {s : State}
    (hdeep : ∀ c k l start, s.phase = .running c k l (.sleep .deep start) →
      (s.nowMs + 1 - start).toNat < s.par.deepSleepMaxMs) :
    (sleepingIn s.phase = some .light ∧ tickStep s = lightWake 0x03 (advanceClock s)) ∨
      (s.phase = .idle → tickStep s = advanceClock s) ∧
        registersWritten (linesToRun s.phase) (advanceClock s) (tickStep s) := by
  cases hp : s.phase with
  | idle =>
    rw [tickStep_idle hp]
    exact .inr ⟨fun _ => rfl, rfl, .inl rfl, .inl rfl, .inl ⟨rfl, rfl⟩, .inl rfl⟩
  | running c k l w =>
    rw [tickStep_running hp]
    rcases resumeWait_writes c k l w (advanceClock s) with ⟨start, rfl, hmax, -⟩ | ⟨start, rfl, h⟩ |
      ⟨u, hu, hout, hlines⟩
    · rw [elapsedMs, advanceClock_nowMs, advanceClock_par] at hmax
      exact absurd (hdeep c k l start hp) (Nat.not_lt.2 hmax)
    · exact .inl ⟨rfl, h⟩
    · exact .inr ⟨nofun, registersWritten_of_linesWrote hu hout hlines⟩

/-- Settles O60, agent by agent: a host write from `hostWriteStep_frame`, a trigger from `triggerStep_cases`,
a tick from `tickStep_cases`; the host's read and the radio's events from the fields they write. -/
theorem stepsWriteOnlyTheirRegisters : Obligations.StepsWriteOnlyTheirRegisters := by
  unfold Obligations.StepsWriteOnlyTheirRegisters
  rintro s t u a hd hreset h k rfl
  obtain ⟨a', e, hd'⟩ := drawStep_frame s
  obtain ⟨rfl, rfl⟩ := Prod.mk.inj (hd'.symm.trans hd)
  rw [step_of_draw hd] at h
  cases a' with
  | hostWrite =>
    obtain ⟨par, now, grace, accept, any⟩ := hostWriteStep_frame h
    simp [par, now, grace, accept, any]
  | hostRead =>
    obtain rfl := Host.Outcome.next.inj h
    obtain ⟨r, e', h'⟩ := hostReadStep_frame { s with env := e }
    simp [h']
  | rxDone f raw =>
    obtain rfl := Host.Outcome.next.inj h
    obtain ⟨p, r, h'⟩ := rxDoneStep_frame f raw { s with env := e }
    simp [h']
  | txDone =>
    obtain rfl := Host.Outcome.next.inj h
    obtain ⟨r, h'⟩ := txDoneStep_frame { s with env := e }
    simp [h']
  | trigger =>
    obtain rfl := Host.Outcome.next.inj h
    rcases triggerStep_cases (s := { s with env := e })
      (not_deepSleep_of_trigger (s := s) hd hreset) with h' | ⟨hlight, h'⟩
    · obtain ⟨_, _, _, _, _, hpush⟩ := debounceTrigger_frame { s with env := e }
      simp [h', hpush]
    · obtain ⟨_, _, _, _, _, hpush⟩ := debounceTrigger_frame (lightWake 0x02 { s with env := e })
      have hlight' : sleepingIn s.phase = some .light := hlight
      rw [h', hpush]
      simp [hlight', lightWake]
  | tick =>
    obtain rfl := Host.Outcome.next.inj h
    rcases tickStep_cases (s := { s with env := e })
      (fun _ _ _ _ => deepSleep_holds_of_tick (s := s) hd hreset) with ⟨hlight, h'⟩ | ⟨hidle, hw⟩
    · have hlight' : sleepingIn s.phase = some .light := hlight
      rw [h', advanceClock_eq]
      simp [hlight', lightWake]
    · rw [advanceClock_eq] at hidle hw
      obtain ⟨hout, conf, rssi, recv, pwr⟩ := hw
      obtain ⟨par, pkt, -, activity, accept, any, ext, batt, -, cfg, evqDrop, txqDrop, evq, txq, buf, -⟩ :=
        outsideRun_eq hout
      refine ⟨par, fun _ => rfl, ?debounce, ?commands, ?events, fun h => .inr ⟨rfl, conf.resolve_left h⟩,
        fun h => .inr ⟨rfl, rssi.resolve_left h⟩, ?receive, (absurd activity ·),
        fun h => .inr (.inr ⟨rfl, pwr.resolve_left h⟩), ?mode, ?pending, ?sticky, ?radio⟩
      case debounce => simp [accept, any]
      case commands => simp [pkt, cfg, ext, batt, txq, txqDrop, buf]
      case events => simp [evq, evqDrop]
      case receive =>
        refine fun h => .inr ⟨rfl, recv.resolve_left fun ⟨rxq, counters⟩ => ?_⟩
        simp [rxq, counters] at h
      case mode => exact fun h => .inr ⟨rfl, fun hp => h (by rw [hidle hp])⟩
      case pending => exact fun h => .inr (.inl ⟨rfl, fun hp => h (by rw [hidle hp])⟩)
      case sticky => exact fun h => .inr (.inr ⟨rfl, fun hp => h (by rw [hidle hp])⟩)
      case radio => exact fun h => .inr (.inl ⟨rfl, fun hp => h (by rw [hidle hp])⟩)
  | powerOnReset => rw [resetsNext_of_powerOnReset hd] at hreset; cases hreset

/-! ## The exact effect of the steps that run no command -/

/-- The host's read takes a waiting response (20_memory.md rule R86). -/
theorem hostReadStep_some {s : State} {r : List Byte} (h : s.resp = some r) :
    hostReadStep s = { s with resp := none, env := { s.env with hostGot := s.env.hostGot ++ [r] } } := by
  simp only [hostReadStep, h]

/-- TxDone sets the done-flag in the transmit wait (10_state.md rule R59). -/
theorem txDoneStep_running {s : State} {c : Instr} {k : List Micro} {l : Locals} {w : Wait}
    (h : s.phase = .running c k l w) :
    txDoneStep s =
      match w with
      | .tx _ => { s with radio := { s.radio with irqTxDone := true } }
      | _ => s := by
  simp only [txDoneStep, h]
  cases w <;> rfl

theorem txDoneStep_idle {s : State} (h : s.phase = .idle) : txDoneStep s = s := by
  simp only [txDoneStep, h]

/-- RxDone of a frame that fits is taken in ReceivingContinuous only (10_state.md rule R58). -/
theorem rxDoneStep_fits {f : List Byte} (hf : f.length ≤ 255) (raw : Byte) (s : State) :
    rxDoneStep f raw s =
      if s.radioMode = .receivingContinuous then
        { s with radio := { s.radio with frame := f, rawRssi := raw }, rxPending := true }
      else s := by
  simp only [rxDoneStep, hf, and_true]

/-- Settles O11, agent by agent. -/
theorem hostReadRadioEventsReset : Obligations.HostReadRadioEventsReset := by
  unfold Obligations.HostReadRadioEventsReset
  intro s sched
  refine ⟨fun r hs hr => ?read, fun f raw hs hf => ?rx, fun c k l w hs hp => ?tx, fun hs hp => ?txIdle,
    fun hs => ?reset⟩ <;> rw [step_scheduled hs, agentStep]
  case read => rw [hostReadStep_some (by exact hr)]
  case rx => rw [rxDoneStep_fits hf]
  case tx =>
    rw [txDoneStep_running (by exact hp)]
    cases w <;> rfl
  case txIdle => rw [txDoneStep_idle (by exact hp)]
  case reset => rfl

/-- Settles O12: an idle tick is the clock's part alone. -/
theorem idleTickAdvancesTimeAndGrace : Obligations.IdleTickAdvancesTimeAndGrace := by
  unfold Obligations.IdleTickAdvancesTimeAndGrace
  intro s sched hs hp
  rw [step_scheduled hs, agentStep, tickStep_idle (by exact hp), advanceClock_eq]

/-! ## Radio ops -/

theorem rxDoneStep_ops (f : List Byte) (raw : Byte) (s : State) :
    (rxDoneStep f raw s).radio.ops = s.radio.ops := by
  unfold rxDoneStep
  split <;> rfl

theorem txDoneStep_ops (s : State) : (txDoneStep s).radio.ops = s.radio.ops := by
  unfold txDoneStep
  split <;> rfl

theorem debounceTrigger_radio (s : State) : (debounceTrigger s).radio = s.radio := by
  obtain ⟨_, _, _, _, _, h⟩ := debounceTrigger_frame s
  rw [h]

/-- A trigger leaves the radio alone, also where it wakes or resets the block (70_reset_and_hazards.md rule
R380). -/
theorem triggerStep_radio (s : State) : (triggerStep s).radio = s.radio :=
  triggerStep_to (P := fun u => u.radio = s.radio) (Q := fun u => u.radio = s.radio)
    (fun u h => (debounceTrigger_radio u).trans h) (fun _ _ _ _ _ _ h => h) (fun _ h => h) s rfl

/-- Settles O15, agent by agent. -/
theorem radioOpsOnlyFromSequencer : Obligations.RadioOpsOnlyFromSequencer := by
  unfold Obligations.RadioOpsOnlyFromSequencer
  intro s t a sched hs hwrite htick h
  rw [step_scheduled hs] at h
  cases a with
  | hostWrite => exact absurd rfl hwrite
  | hostRead =>
    obtain rfl := Host.Outcome.next.inj h
    obtain ⟨r, e, h'⟩ := hostReadStep_frame { s with env := { s.env with sched := sched } }
    rw [h']
  | tick =>
    obtain rfl := Host.Outcome.next.inj h
    rw [tickStep_idle (by exact htick rfl), advanceClock_radio]
  | trigger => obtain rfl := Host.Outcome.next.inj h; rw [triggerStep_radio]
  | rxDone f raw => obtain rfl := Host.Outcome.next.inj h; rw [rxDoneStep_ops]
  | txDone => obtain rfl := Host.Outcome.next.inj h; rw [txDoneStep_ops]
  | powerOnReset => obtain rfl := Host.Outcome.next.inj h; rfl

/-! ## Commands that only read -/

/-- `i` answers `code :: payload` and writes nothing else, whatever the phase and the response it finds. -/
def onlyAnswers (i : Instr) (code : Byte) (payload : List Byte) (s : State) : Prop :=
  ∀ p r, exec i { s with phase := p, resp := r } = .next (answer code payload s)

/-- A command that only answers gives the same answer once the first is taken. -/
theorem onlyAnswers.again {i : Instr} {code : Byte} {payload : List Byte} {s : State}
    (h : onlyAnswers i code payload s) :
    exec i s = .next (answer code payload s) ∧
      ∀ t, exec i s = .next t → exec i { t with resp := none } = .next (answer code payload s) := by
  have once : exec i s = .next (answer code payload s) := h s.phase s.resp
  refine ⟨once, fun t ht => ?_⟩
  obtain rfl := Host.Outcome.next.inj (once.symm.trans ht)
  exact h .idle none

theorem cntRead_onlyAnswers (idx : Byte) (s : State) :
    ∃ code payload, onlyAnswers (.cntRead idx) code payload s := by
  cases h : counterRead idx s.counters with
  | some v => exact ⟨0x00, be32 v, fun _ _ => by simp only [exec, execCntRead, h, respond_ok]; rfl⟩
  | none => exact ⟨0x02, [], fun _ _ => by simp only [exec, execCntRead, h]; rfl⟩

theorem cfgRead_onlyAnswers (idx : Byte) (s : State) :
    ∃ code payload, onlyAnswers (.cfgRead idx) code payload s := by
  cases h : cfgRead s.par idx s.cfg with
  | some v => exact ⟨0x00, be32 v, fun _ _ => by simp only [exec, execCfgRead, h, respond_ok]; rfl⟩
  | none => exact ⟨0x02, [], fun _ _ => by simp only [exec, execCfgRead, h]; rfl⟩

/-- The commands of 20_memory.md rule R88 without an index operand answer what they read with status OK. -/
theorem readCommand_onlyAnswers {i : Instr}
    (hi : i ∈ [Instr.statusRead, .timeRead, .radioPoll, .radioRssi, .queueStatus, .pktSerialize,
      .pktValidate])
    (s : State) : ∃ payload, onlyAnswers i 0x00 payload s := by
  simp only [List.mem_cons, List.not_mem_nil, or_false] at hi
  rcases hi with rfl | rfl | rfl | rfl | rfl | rfl | rfl
  · exact ⟨be16 (statusWord s), fun _ _ => rfl⟩
  · exact ⟨be32 s.nowMs, fun _ _ => rfl⟩
  · exact ⟨[if s.rxPending then 1 else 0], fun _ _ => rfl⟩
  · exact ⟨be16 s.lastRssi, fun _ _ => rfl⟩
  · exact ⟨[BitVec.ofNat 8 s.evq.length, BitVec.ofNat 8 s.txq.length, BitVec.ofNat 8 s.rxq.length],
      fun _ _ => rfl⟩
  · exact ⟨frame s.pkt, fun _ _ => rfl⟩
  · exact ⟨[if packetValid s.par s.pkt then 1 else 0], fun _ _ => rfl⟩

/-- Settles O28: each of the ten commands only answers, so it answers the same again. -/
theorem readCommandsIdempotent : Obligations.ReadCommandsIdempotent := by
  unfold Obligations.ReadCommandsIdempotent
  intro s i hi
  obtain ⟨code, payload, h⟩ : ∃ code payload, onlyAnswers i code payload s := by
    rcases hi with hi | ⟨x, rfl⟩ | ⟨x, rfl⟩ | ⟨d, rfl⟩
    · exact ⟨0x00, readCommand_onlyAnswers hi s⟩
    · exact cntRead_onlyAnswers x s
    · exact cfgRead_onlyAnswers x s
    · exact ⟨0x00, be16 (crc16 s.par d), fun _ _ => rfl⟩
  exact ⟨code, payload, h.again⟩

end Sys2Proof.Proofs.AgentSteps
end

section
/-! PROOFS. The encoding of 30_encoding.md: the decoder accepts exactly the encodings of well-formed commands
(rules R110, R116, R117, R122), a command's length is known from its own bytes (rule R113), and so a command
is complete at its last byte and nowhere before (rules R113, R118). -/

namespace Sys2Proof.Proofs.Encoding

open Sys2Proof Sys2Proof.Machine

/-! ## What each format decodes (rule R110) -/

theorem decodeF1_eq_ok {mk : Byte → Instr} {bs rest : List Byte} {i : Instr} :
    decodeF1 mk bs = .ok (i, rest) ↔ ∃ a, i = mk a ∧ bs = a :: rest := by
  constructor
  · intro h
    cases bs with
    | nil => cases h
    | cons a bs => cases h; exact ⟨a, rfl, rfl⟩
  · rintro ⟨a, rfl, rfl⟩
    rfl

theorem decodeF2_eq_ok {mk : Half → Instr} {bs rest : List Byte} {i : Instr} :
    decodeF2 mk bs = .ok (i, rest) ↔ ∃ v, i = mk v ∧ bs = be16 v ++ rest := by
  constructor
  · intro h
    unfold decodeF2 at h
    split at h
    · next a b _ => cases h; exact ⟨fromBe16 a b, rfl, by rw [be16_fromBe16]; rfl⟩
    · cases h
  · rintro ⟨v, rfl, rfl⟩
    simp [decodeF2, be16, fromBe16_be16]

theorem decodeF5_eq_ok {mk : Byte → Word → Instr} {bs rest : List Byte} {i : Instr} :
    decodeF5 mk bs = .ok (i, rest) ↔ ∃ idx v, i = mk idx v ∧ bs = idx :: (be32 v ++ rest) := by
  constructor
  · intro h
    unfold decodeF5 at h
    split at h
    · next idx a b c d _ => cases h; exact ⟨idx, fromBe32 a b c d, rfl, by rw [be32_fromBe32]; rfl⟩
    · cases h
  · rintro ⟨idx, v, rfl, rfl⟩
    simp [decodeF5, be32, fromBe32_be32]

theorem decodeF7_eq_ok {mk : Byte → Word → Byte → Byte → Instr} {bs rest : List Byte} {i : Instr} :
    decodeF7 mk bs = .ok (i, rest) ↔
      ∃ n v e l, i = mk n v e l ∧ bs = n :: (be32 v ++ e :: l :: rest) := by
  constructor
  · intro h
    unfold decodeF7 at h
    split at h
    · next n a b c d e l _ =>
      cases h; exact ⟨n, fromBe32 a b c d, e, l, rfl, by rw [be32_fromBe32]; rfl⟩
    · cases h
  · rintro ⟨n, v, e, l, rfl, rfl⟩
    simp [decodeF7, be32, fromBe32_be32]

theorem decodeData_eq_ok {mk : List Byte → Instr} {len : Nat} {bs rest : List Byte} {i : Instr} :
    decodeData mk len bs = .ok (i, rest) ↔ ∃ d, i = mk d ∧ d.length = len ∧ bs = d ++ rest := by
  constructor
  · intro h
    unfold decodeData at h
    split at h
    · next hlen =>
      cases h
      exact ⟨bs.take len, rfl, List.length_take_of_le hlen, (List.take_append_drop len bs).symm⟩
    · cases h
  · rintro ⟨d, rfl, rfl, rfl⟩
    simp [decodeData]

theorem decodeFL8_eq_ok {mk : List Byte → Instr} {bs rest : List Byte} {i : Instr} :
    decodeFL8 mk bs = .ok (i, rest) ↔
      ∃ d, i = mk d ∧ d.length ≤ 255 ∧ bs = BitVec.ofNat 8 d.length :: (d ++ rest) := by
  constructor
  · intro h
    cases bs with
    | nil => cases h
    | cons n bs =>
      obtain ⟨d, rfl, hlen, rfl⟩ := decodeData_eq_ok.1 h
      exact ⟨d, rfl, hlen ▸ Nat.le_of_lt_succ n.isLt, by rw [hlen, BitVec.ofNat_toNat, BitVec.setWidth_eq]⟩
  · rintro ⟨d, rfl, hlen, rfl⟩
    exact decodeData_eq_ok.2
      ⟨d, rfl, by rw [BitVec.toNat_ofNat, Nat.mod_eq_of_lt (Nat.lt_succ_of_le hlen)], rfl⟩

theorem decodeFL16_eq_ok {mk : List Byte → Instr} {bs rest : List Byte} {i : Instr} :
    decodeFL16 mk bs = .ok (i, rest) ↔
      ∃ d, i = mk d ∧ d.length ≤ 65535 ∧ bs = be16 (BitVec.ofNat 16 d.length) ++ (d ++ rest) := by
  constructor
  · intro h
    unfold decodeFL16 at h
    split at h
    · next a b bs =>
      obtain ⟨d, rfl, hlen, rfl⟩ := decodeData_eq_ok.1 h
      refine ⟨d, rfl, hlen ▸ Nat.le_of_lt_succ (fromBe16 a b).isLt, ?_⟩
      rw [hlen, BitVec.ofNat_toNat, BitVec.setWidth_eq, be16_fromBe16]
      rfl
    · cases h
  · rintro ⟨d, rfl, hlen, rfl⟩
    exact decodeData_eq_ok.2 ⟨d, rfl, (fromBe16_ofNat_toNat hlen).symm, rfl⟩

/-! ## What the decoder accepts (rules R117, R122) -/

/-- A row reads its operands from exactly the operand bytes of its own well-formed commands. -/
theorem decodeOperands_eq_ok {o : Opcode} {bs rest : List Byte} {i : Instr} :
    decodeOperands o bs = .ok (i, rest) ↔
      instrOpcode i = o ∧ i.wellFormed = true ∧ bs = encodeOperands i ++ rest := by
  constructor
  · intro h
    cases o with
    | nop | statusRead | timeRead | pktSerialize | pktValidate | radioInit | radioPoll | radioRssi
      | radioSleep | radioWake | radioRxStart | pwrNotify | evqPop | queueStatus | pipeSend | pipeRecv
      | rxqPop => cases h; exact ⟨rfl, rfl, rfl⟩
    | cntRead | cfgRead | radioReceive | pwrTick | evqPush | pipeBuild =>
      obtain ⟨a, rfl, rfl⟩ := decodeF1_eq_ok.1 h
      exact ⟨rfl, rfl, rfl⟩
    | statusClear =>
      obtain ⟨v, rfl, rfl⟩ := decodeF2_eq_ok.1 h
      exact ⟨rfl, rfl, rfl⟩
    | cfgWrite =>
      obtain ⟨idx, v, rfl, rfl⟩ := decodeF5_eq_ok.1 h
      exact ⟨rfl, rfl, rfl⟩
    | pktBuild =>
      obtain ⟨n, v, e, l, rfl, rfl⟩ := decodeF7_eq_ok.1 h
      exact ⟨rfl, rfl, rfl⟩
    | pktDeserialize =>
      obtain ⟨d, rfl, hlen, rfl⟩ := decodeData_eq_ok.1 h
      exact ⟨rfl, decide_eq_true hlen, rfl⟩
    | radioTransmit =>
      obtain ⟨d, rfl, hlen, rfl⟩ := decodeFL8_eq_ok.1 h
      exact ⟨rfl, decide_eq_true hlen, rfl⟩
    | crc16 =>
      obtain ⟨d, rfl, hlen, rfl⟩ := decodeFL16_eq_ok.1 h
      exact ⟨rfl, decide_eq_true hlen, rfl⟩
  · rintro ⟨rfl, hwf, rfl⟩
    cases i with
    | statusClear mask => exact decodeF2_eq_ok.2 ⟨mask, rfl, rfl⟩
    | cfgWrite idx v => exact decodeF5_eq_ok.2 ⟨idx, v, rfl, rfl⟩
    | pktBuild n v e l => exact decodeF7_eq_ok.2 ⟨n, v, e, l, rfl, rfl⟩
    | pktDeserialize d => exact decodeData_eq_ok.2 ⟨d, rfl, of_decide_eq_true hwf, rfl⟩
    | radioTransmit d => exact decodeFL8_eq_ok.2 ⟨d, rfl, of_decide_eq_true hwf, rfl⟩
    | crc16 d =>
      exact decodeFL16_eq_ok.2 ⟨d, rfl, of_decide_eq_true hwf, List.append_assoc _ _ _⟩
    | _ => rfl

/-- A legal opcode byte hands the bytes after it to its row. -/
theorem decode_opcodeByte_cons (o : Opcode) (bs : List Byte) :
    decode (opcodeByte o :: bs) = decodeOperands o bs := by
  simp only [decode, opcodeOf_opcodeByte]

/-- A byte that names no row is rejected by name (rule R118). -/
theorem decode_illegal_cons {b : Byte} (h : opcodeOf b = none) (bs : List Byte) :
    decode (b :: bs) = .error (.illegalOpcode b) := by
  simp only [decode, h]

/-- The decoder accepts exactly the encodings of well-formed commands, and stops where they end. -/
theorem decode_eq_ok {bs rest : List Byte} {i : Instr} :
    decode bs = .ok (i, rest) ↔ i.wellFormed = true ∧ bs = encode i ++ rest := by
  constructor
  · intro h
    cases bs with
    | nil => cases h
    | cons b bs =>
      cases ho : opcodeOf b with
      | none => rw [decode_illegal_cons ho] at h; cases h
      | some o =>
        obtain rfl := opcodeOf_eq_some.1 ho
        rw [decode_opcodeByte_cons] at h
        obtain ⟨rfl, hwf, rfl⟩ := decodeOperands_eq_ok.1 h
        exact ⟨hwf, rfl⟩
  · rintro ⟨hwf, rfl⟩
    exact (decode_opcodeByte_cons _ _).trans (decodeOperands_eq_ok.2 ⟨rfl, hwf, rfl⟩)

/-- Settles O1: the decoder accepts every encoding of a well-formed command. -/
theorem decodeOfEncode : Obligations.DecodeOfEncode := by
  unfold Obligations.DecodeOfEncode
  exact fun i rest hwf => decode_eq_ok.2 ⟨hwf, rfl⟩

/-- Settles O2: the decoder accepts nothing else. -/
theorem encodeOfDecode : Obligations.EncodeOfDecode := by
  unfold Obligations.EncodeOfDecode
  exact fun bs rest i h => decode_eq_ok.1 h

/-- Settles O5: the decoder, run on each word. -/
theorem specWordsDecode : Obligations.SpecWordsDecode := by
  unfold Obligations.SpecWordsDecode
  exact ⟨rfl, rfl, rfl, rfl, rfl, rfl, rfl, rfl⟩

/-! ## The length of a command (rule R113) -/

theorem commandLength_illegal_cons {b : Byte} (h : opcodeOf b = none) (bs : List Byte) :
    commandLength (b :: bs) = 1 := by
  simp only [commandLength, List.getD_cons_zero, h]

/-- Bytes that follow do not change the length of a command, unless its length field has yet to arrive; the
buffer is then short of the command on either reading. -/
theorem commandLength_append (buf more : List Byte) :
    commandLength (buf ++ more) = commandLength buf ∨
      (buf.length < commandLength buf ∧ buf.length < commandLength (buf ++ more)) := by
  cases buf with
  | nil => exact .inr ⟨commandLength_pos _, commandLength_pos _⟩
  | cons b bs =>
    cases ho : opcodeOf b with
    | none => exact .inl ((commandLength_illegal_cons ho _).trans (commandLength_illegal_cons ho _).symm)
    | some o =>
      obtain rfl := opcodeOf_eq_some.1 ho
      rw [List.cons_append, commandLength_cons, commandLength_cons]
      cases opcodeFormat o with
      | F0 | F1 | F2 | F5 | F7 | F9 => exact .inl rfl
      | FL8 =>
        cases bs with
        | nil => refine .inr ⟨?_, ?_⟩ <;> simp only [List.length_cons, List.length_nil] <;> omega
        | cons n _ => exact .inl rfl
      | FL16 =>
        match bs with
        | [] | [_] => refine .inr ⟨?_, ?_⟩ <;> simp only [List.length_cons, List.length_nil] <;> omega
        | _ :: _ :: _ => exact .inl rfl

/-- The encoding of a well-formed command is as long as its first bytes say. -/
theorem commandLength_encode {i : Instr} (hwf : i.wellFormed = true) :
    commandLength (encode i) = (encode i).length := by
  refine (complete_iff.1 ?_).symm
  cases i with
  | crc16 d => exact Laws.EncodingComplete.crc16 d hwf
  | radioTransmit d => exact Laws.EncodingComplete.radioTransmit d hwf
  | pktDeserialize d => exact Laws.EncodingComplete.pktDeserialize d hwf
  | _ => exact complete_iff.2 rfl

/-- The same whatever follows. -/
theorem commandLength_encode_append {i : Instr} (hwf : i.wellFormed = true) (rest : List Byte) :
    commandLength (encode i ++ rest) = (encode i).length := by
  have h := commandLength_encode hwf
  rcases commandLength_append (encode i) rest with h' | ⟨hlt, -⟩
  · exact h'.trans h
  · omega

/-- Bytes that are one whole command are complete. -/
theorem complete_of_decode {buf : List Byte} {i : Instr} (h : decode buf = .ok (i, [])) :
    complete buf = true := by
  obtain ⟨hwf, rfl⟩ := decode_eq_ok.1 h
  rw [List.append_nil]
  exact complete_iff.2 (commandLength_encode hwf).symm

/-- Settles O3: fewer bytes are not complete, because those that follow would not change the length they
give. -/
theorem completeExactlyAtEncoding : Obligations.CompleteExactlyAtEncoding := by
  unfold Obligations.CompleteExactlyAtEncoding
  intro i hwf
  have hlen := commandLength_encode hwf
  refine ⟨complete_iff.2 hlen.symm, fun n hn => ?_⟩
  rw [Bool.eq_false_iff, ne_eq, complete_iff]
  intro hc
  have hshort : ((encode i).take n).length = n := List.length_take_of_le (Nat.le_of_lt hn)
  have happ := commandLength_append ((encode i).take n) ((encode i).drop n)
  rw [List.take_append_drop] at happ
  omega

/-! ## Complete buffers (rules R113, R118) -/

theorem decodeF1_of_le {mk : Byte → Instr} {bs : List Byte} (h : 2 ≤ bs.length + 1) :
    ∃ r, decodeF1 mk bs = .ok r := by
  match bs, h with
  | _ :: _, _ => exact ⟨_, rfl⟩

theorem decodeF2_of_le {mk : Half → Instr} {bs : List Byte} (h : 3 ≤ bs.length + 1) :
    ∃ r, decodeF2 mk bs = .ok r := by
  match bs, h with
  | _ :: _ :: _, _ => exact ⟨_, rfl⟩

theorem decodeF5_of_le {mk : Byte → Word → Instr} {bs : List Byte} (h : 6 ≤ bs.length + 1) :
    ∃ r, decodeF5 mk bs = .ok r := by
  match bs, h with
  | _ :: _ :: _ :: _ :: _ :: _, _ => exact ⟨_, rfl⟩

theorem decodeF7_of_le {mk : Byte → Word → Byte → Byte → Instr} {bs : List Byte}
    (h : 8 ≤ bs.length + 1) : ∃ r, decodeF7 mk bs = .ok r := by
  match bs, h with
  | _ :: _ :: _ :: _ :: _ :: _ :: _ :: _, _ => exact ⟨_, rfl⟩

theorem decodeData_of_le {mk : List Byte → Instr} {len : Nat} {bs : List Byte} (h : len ≤ bs.length) :
    ∃ r, decodeData mk len bs = .ok r :=
  ⟨_, if_pos h⟩

theorem decodeFL8_of_le {mk : List Byte → Instr} {bs : List Byte}
    (h : 2 + (bs.getD 0 0).toNat ≤ bs.length + 1) : ∃ r, decodeFL8 mk bs = .ok r := by
  match bs, h with
  | n :: bs, h =>
    simp only [List.getD_cons_zero, List.length_cons] at h
    exact decodeData_of_le (by omega)

theorem decodeFL16_of_le {mk : List Byte → Instr} {bs : List Byte}
    (h : 3 + (fromBe16 (bs.getD 0 0) (bs.getD 1 0)).toNat ≤ bs.length + 1) :
    ∃ r, decodeFL16 mk bs = .ok r := by
  cases bs with
  | nil => simp only [List.length_nil] at h; omega
  | cons a bs =>
    cases bs with
    | nil => simp only [List.length_cons, List.length_nil] at h; omega
    | cons b bs =>
      simp only [List.getD_cons_zero, List.getD_cons_succ, List.length_cons] at h
      exact decodeData_of_le (by omega)

/-- A row finds all its operands where the bytes are as long as the command. -/
theorem decodeOperands_of_le {o : Opcode} {bs : List Byte}
    (h : commandLength (opcodeByte o :: bs) ≤ bs.length + 1) : ∃ r, decodeOperands o bs = .ok r := by
  rw [commandLength_cons] at h
  cases o with
  | cntRead | cfgRead | radioReceive | pwrTick | evqPush | pipeBuild => exact decodeF1_of_le h
  | statusClear => exact decodeF2_of_le h
  | cfgWrite => exact decodeF5_of_le h
  | pktBuild => exact decodeF7_of_le h
  | pktDeserialize => exact decodeData_of_le (Nat.le_of_succ_le_succ h)
  | radioTransmit => exact decodeFL8_of_le h
  | crc16 => exact decodeFL16_of_le h
  | _ => exact ⟨_, rfl⟩

/-- Settles O4, by the first byte: an illegal one is the whole buffer, and a legal one finds all its operands
and leaves nothing over. -/
theorem completeBufferIsOneCommand : Obligations.CompleteBufferIsOneCommand := by
  unfold Obligations.CompleteBufferIsOneCommand
  intro buf hc
  have hlen := complete_iff.1 hc
  cases buf with
  | nil => cases hc
  | cons b bs =>
    cases ho : opcodeOf b with
    | none =>
      rw [commandLength_illegal_cons ho] at hlen
      obtain rfl : bs = [] := List.eq_nil_of_length_eq_zero (Nat.succ.inj hlen)
      exact .inr ⟨b, rfl, ho, decode_illegal_cons ho []⟩
    | some o =>
      obtain rfl := opcodeOf_eq_some.1 ho
      obtain ⟨⟨i, rest⟩, hd⟩ := decodeOperands_of_le (Nat.le_of_eq hlen.symm)
      rw [← decode_opcodeByte_cons] at hd
      obtain ⟨hwf, heq⟩ := decode_eq_ok.1 hd
      rw [heq, commandLength_encode_append hwf, List.length_append] at hlen
      obtain rfl : rest = [] := List.eq_nil_of_length_eq_zero (by omega)
      exact .inl ⟨i, hd, hwf⟩

/-! ## The bytes that name no command (rule R118) -/

theorem opcodeOf_eq_none {b : Byte} : opcodeOf b = none ↔ ∀ o ∈ allOpcodes, opcodeByte o ≠ b := by
  simp only [opcodeOf, List.find?_eq_none, beq_iff_eq, ne_eq]

/-- The ranges between the rows of the opcode map. -/
theorem opcodeOf_eq_none_iff_ranges (b : Byte) :
    opcodeOf b = none ↔
      (0x07 ≤ b.toNat ∧ b.toNat ≤ 0x0F) ∨ (0x11 ≤ b.toNat ∧ b.toNat ≤ 0x1F) ∨
      (0x24 ≤ b.toNat ∧ b.toNat ≤ 0x2F) ∨ (0x38 ≤ b.toNat ∧ b.toNat ≤ 0x3F) ∨
      (0x42 ≤ b.toNat ∧ b.toNat ≤ 0x4F) ∨ (0x57 ≤ b.toNat ∧ b.toNat ≤ 0xFF) := by
  have hb := b.isLt
  simp only [opcodeOf_eq_none, allOpcodes, List.forall_mem_cons, List.not_mem_nil, false_implies,
    implies_true, and_true, opcodeByte, ne_eq, ← BitVec.toNat_inj, BitVec.reduceToNat]
  omega

end Sys2Proof.Proofs.Encoding
end

section
/-! PROOFS. The command port of 30_encoding.md: what a host write does at an open port and at a closed one
(rules R112, R114, R118), what the port holds while a command runs (rules R112 to R114), and the refusals of
the radio and pipeline commands (rules R198, R342). -/

namespace Sys2Proof.Proofs.CommandPort

open Sys2Proof Sys2Proof.Machine Sys2Proof.Proofs.StateElements Sys2Proof.Proofs.Encoding

/-! ## A byte accepted (rule R112) -/

theorem acceptByte_decoded {b : Byte} {s : State} {i : Instr} (h : decode (s.cmdBuf ++ [b]) = .ok (i, [])) :
    acceptByte b s = exec i { s with cmdBuf := [] } := by
  simp only [acceptByte, complete_of_decode h, if_true, h]

theorem acceptByte_illegal {b : Byte} {s : State} (hbuf : s.cmdBuf = []) (h : opcodeOf b = none) :
    acceptByte b s = .next (answer 0x01 [] s) := by
  have hc : complete [b] = true := complete_iff.2 (commandLength_illegal_cons h []).symm
  have hs : { s with cmdBuf := [] } = s := by rw [← hbuf]
  simp only [acceptByte, hbuf, List.nil_append, hc, if_true, decode_illegal_cons h, hs]
  rfl

theorem acceptByte_incomplete {b : Byte} {s : State} (h : complete (s.cmdBuf ++ [b]) = false) :
    acceptByte b s = .next { s with cmdBuf := s.cmdBuf ++ [b] } := by
  simp only [acceptByte, h, Bool.false_eq_true, if_false]

/-! ## A host write, at an open port and at a closed one (rule R112) -/

theorem hostWriteStep_open {s : State} {b : Byte} {bytes : List Byte} (hphase : s.phase = .idle)
    (hresp : s.resp = none) (hbytes : s.env.hostBytes = b :: bytes) :
    hostWriteStep s = acceptByte b { s with env := { s.env with hostBytes := bytes } } := by
  simp only [hostWriteStep, portAccepts_iff.2 ⟨hphase, hresp⟩, if_true, drawHostByte_cons hbytes]

/-- A scheduled write at an open port accepts the host's byte. -/
theorem step_hostWrite_open {s : State} {sched : List AgentStep} {b : Byte} {bytes : List Byte}
    (hphase : s.phase = .idle) (hresp : s.resp = none) (hsched : s.env.sched = .hostWrite :: sched)
    (hbytes : s.env.hostBytes = b :: bytes) :
    step s = acceptByte b { s with env := { s.env with sched := sched, hostBytes := bytes } } :=
  (step_scheduled hsched).trans (hostWriteStep_open hphase hresp hbytes)

/-- Settles O6: the bytes are complete, so the port executes what they decode to. -/
theorem stepRunsDecodedCommand : Obligations.StepRunsDecodedCommand := by
  unfold Obligations.StepRunsDecodedCommand
  intro s sched b bytes i hphase hresp hsched hbytes hd
  exact (step_hostWrite_open hphase hresp hsched hbytes).trans (acceptByte_decoded hd)

/-- Settles O7, by the gaps of the opcode map, and the one byte that is a complete command and decodes to
none. -/
theorem illegalOpcodeAnswered : Obligations.IllegalOpcodeAnswered := by
  unfold Obligations.IllegalOpcodeAnswered
  refine ⟨opcodeOf_eq_none_iff_ranges, fun s sched b bytes hphase hresp hbuf hsched hbytes hop => ?_⟩
  exact (step_hostWrite_open hphase hresp hsched hbytes).trans (acceptByte_illegal hbuf hop)

/-- Settles O8: a port that is not open leaves the host's byte undrawn. -/
theorem closedPortTakesNoByte : Obligations.ClosedPortTakesNoByte := by
  unfold Obligations.ClosedPortTakesNoByte
  intro s sched hsched hclosed
  rw [step_scheduled hsched]
  rcases hostWriteStep_cases { s with env := { s.env with sched := sched } } with ⟨hopen, -⟩ | ⟨-, h⟩
  · obtain ⟨hphase, hresp⟩ := portAccepts_iff.1 hopen
    exact (hclosed.elim (· hphase) (· hresp)).elim
  · exact h

/-- Settles O9: an incomplete buffer is kept. -/
theorem partialCommandWaits : Obligations.PartialCommandWaits := by
  unfold Obligations.PartialCommandWaits
  intro s sched b bytes hphase hresp hsched hbytes hc
  exact (step_hostWrite_open hphase hresp hsched hbytes).trans (acceptByte_incomplete hc)

/-! ## The port while a command runs (rules R112 to R114) -/

/-- What the port holds while a command runs: no response, and no byte of another command. -/
def portEmpty (s : State) : Prop := s.resp = none ∧ s.cmdBuf = []

/-- An empty buffer is short of every command. -/
theorem portQuiet_of_portEmpty {s : State} (h : portEmpty s) : portQuiet s :=
  ⟨fun _ => h, by rw [h.2]; exact commandLength_pos []⟩

/-- A command that ends leaves the buffer as empty as it was, and runs no longer. -/
theorem portQuiet_respond {s : State} (h : s.cmdBuf = []) (st : Status) (pl : List Byte) :
    portQuiet (respond st pl s) :=
  ⟨fun hrun => absurd rfl hrun, by rw [respond_cmdBuf, h]; exact commandLength_pos []⟩

theorem portEmpty_opCompleted {s : State} (h : portEmpty s) (op : RadioOp) (r : Radio) (e : Env) :
    portEmpty (opCompleted op r e s) := by
  cases op <;> exact h

theorem portQuiet_deliverFrame {s : State} (h : s.cmdBuf = []) (l : Locals) : portQuiet (deliverFrame l s) := by
  rcases deliverFrame_cases l s with h' | ⟨-, h'⟩ | h' <;> rw [h'] <;> exact portQuiet_respond h _ _

/-- Only the line that ends a command responds, and no line takes a byte. -/
theorem portEmpty_stepMicro {s : State} (h : portEmpty s) (c : Instr) (k : List Micro) (m : Micro)
    (l : Locals) : progressTo portEmpty portQuiet (stepMicro c k m l s) := by
  have ends : ∀ st pl, portQuiet (respond st pl s) := portQuiet_respond h.2
  rcases stepMicro_cases c k m l s with ⟨op, -, h'⟩ | h' | ⟨-, h'⟩ | ⟨-, h'⟩ | ⟨-, h'⟩ | ⟨-, h'⟩ |
    ⟨_, _, -, h'⟩ | ⟨_, -, h'⟩ | ⟨-, h'⟩ | ⟨_, -, h'⟩ <;> rw [h']
  · exact radioIssue_to (fun r e => portEmpty_opCompleted h op r e)
      (fun _ _ _ _ _ _ => portQuiet_of_portEmpty h) (fun _ _ _ _ => h)
      (fun _ _ _ _ => portQuiet_respond h.2 _ _)
  · exact h
  · exact ends _ _
  · exact h
  · exact portQuiet_of_portEmpty h
  · exact ends _ _
  · exact h
  · exact ends _ _
  · exact portQuiet_deliverFrame h.2 l
  · exact portQuiet_of_portEmpty h

theorem portQuiet_runLines {s : State} (h : portEmpty s) (c : Instr) (k : List Micro) (l : Locals) :
    portQuiet (runLines c k l s) :=
  runLines_to (fun m k' l _ _ hu => portEmpty_stepMicro hu c k' m l) (fun _ hu => portQuiet_of_portEmpty hu)
    l s h

theorem portQuiet_continueWith {c : Instr} {k : List Micro} {p : Progress}
    (h : progressTo portEmpty portQuiet p) : portQuiet (continueWith c k p) :=
  continueWith_to (fun m k' l _ _ hu => portEmpty_stepMicro hu c k' m l)
    (fun _ hu => portQuiet_of_portEmpty hu) p h

theorem portQuiet_resetBlock (s : State) : portQuiet (resetBlock s) := portQuiet_of_portEmpty ⟨rfl, rfl⟩

theorem portQuiet_resumeWait {s : State} (h : portEmpty s) (c : Instr) (k : List Micro) (l : Locals)
    (w : Wait) : portQuiet (resumeWait c k l w s) := by
  have stays := portQuiet_of_portEmpty h
  rcases resumeWait_cases c k l w s with ⟨op, n, -, h'⟩ | ⟨m, n, -, h'⟩ | ⟨t, -, h' | h' | h'⟩ |
    ⟨t, -, h' | h'⟩ | ⟨t, -, h' | h'⟩ <;> rw [h']
  · exact portQuiet_continueWith (awaitReady_to (fun r e => portEmpty_opCompleted h op r e)
      (fun _ _ _ _ => portQuiet_of_portEmpty h) (fun _ _ _ => h) (fun _ _ _ => portQuiet_respond h.2 _ _))
  · exact portQuiet_continueWith (awaitReadback_to (fun _ => h) (fun _ _ => portQuiet_of_portEmpty h)
      (fun _ _ => h) (fun _ _ => portQuiet_respond h.2 _ _))
  · exact portQuiet_runLines h c k l
  · exact portQuiet_runLines (s := recordTxTimeout s) h c transmitTimeoutBody l
  · exact stays
  · exact portQuiet_respond h.2 _ _
  · exact stays
  · exact portQuiet_resetBlock s
  · exact stays

/-- A body starts with the port as the command found it. -/
theorem portEmpty_of_startsRun {i : Instr} {s u : State} {k : List Micro} (h : startsRun i s k u)
    (hs : portEmpty s) : portEmpty u := by
  obtain ⟨_, _, _, _, _, rfl, -⟩ := startsRun_frame h
  exact hs

theorem portQuiet_exec {i : Instr} {s t : State} (hs : portEmpty s) (h : exec i s = .next t) :
    portQuiet t := by
  rcases exec_cases i s with ⟨st, pl, u, hx, -, -, -, -, -, -, -, -, -, -, -, hbuf, -⟩ | ⟨k, l, u, hx, hu⟩
  · obtain rfl := Host.Outcome.next.inj (hx.symm.trans h)
    exact portQuiet_respond (hbuf.trans hs.2) st pl
  · obtain rfl := Host.Outcome.next.inj (hx.symm.trans h)
    exact portQuiet_runLines (portEmpty_of_startsRun hu hs) i k l

/-- A buffer short of its command, and not complete with one more byte, is still short of it. -/
theorem length_lt_commandLength_snoc {buf : List Byte} {b : Byte} (h : buf.length < commandLength buf)
    (hc : complete (buf ++ [b]) = false) : (buf ++ [b]).length < commandLength (buf ++ [b]) := by
  rw [Bool.eq_false_iff, ne_eq, complete_iff] at hc
  have hlen : (buf ++ [b]).length = buf.length + 1 := List.length_append
  rcases commandLength_append buf [b] with happ | ⟨-, happ⟩ <;> omega

/-- The host's read takes the response only. -/
theorem portQuiet_hostReadStep {s : State} (h : portQuiet s) : portQuiet (hostReadStep s) := by
  unfold hostReadStep
  split
  · exact ⟨fun hrun => ⟨rfl, (h.1 hrun).2⟩, h.2⟩
  · exact h

/-- A trigger's debounce and push touches neither the port nor the phase. -/
theorem portQuiet_debounceTrigger {s : State} (h : portQuiet s) : portQuiet (debounceTrigger s) := by
  rcases debounceTrigger_cases s with ⟨-, h'⟩ | ⟨-, -, h'⟩ | ⟨-, -, h'⟩ <;> rw [h'] <;> exact h

/-- Settles O55, agent by agent: a command begins with the port empty, only its end responds, and a byte is
kept only where it leaves the buffer short of a command. -/
theorem portStaysQuiet : Obligations.PortStaysQuiet := by
  unfold Obligations.PortStaysQuiet
  intro s t hs h
  have runs : ∀ {c k l w} {s : State}, s.phase = .running c k l w → portQuiet s → portEmpty s :=
    fun hp h => h.1 (by rw [hp]; exact Phase.noConfusion)
  refine step_keeps (fun _ _ h => h) (fun _ h => portQuiet_hostReadStep h) ?tick ?trigger ?rx ?tx
    (fun s _ => portQuiet_resetBlock s)
    (fun i s t _ _ hresp h => portQuiet_exec (s := { s with cmdBuf := [] }) ⟨hresp, rfl⟩ h)
    (fun _ _ _ _ => portQuiet_respond rfl _ _) ?kept hs h
  case tick =>
    exact tickStep_to (fun s h => by rw [advanceClock_eq]; exact h) (fun _ h => h)
      (fun c k l w s hp h => portQuiet_resumeWait (runs hp h) c k l w)
  case trigger =>
    exact triggerStep_to (fun _ h => portQuiet_debounceTrigger h)
      (fun _ _ _ _ _ hp h => portQuiet_respond (runs hp h).2 _ _) (fun s _ => portQuiet_resetBlock s)
  case rx =>
    intro f raw s h
    obtain ⟨p, r, h'⟩ := rxDoneStep_frame f raw s
    rw [h']
    exact h
  case tx =>
    intro s h
    obtain ⟨r, h'⟩ := txDoneStep_frame s
    rw [h']
    exact h
  case kept =>
    intro b s h hidle _ hc
    exact ⟨fun hrun => absurd hidle hrun, length_lt_commandLength_snoc h.2 hc⟩

/-! ## Refusals (42_transceiver.md rule R198; 60_exceptions.md rule R342) -/

/-- A zero length is refused before anything else is looked at. -/
theorem exec_zeroLength (s : State) :
    exec (.radioTransmit []) s = .next (answer 0x02 [] s) ∧
      exec (.radioReceive 0) s = .next (answer 0x02 [] s) :=
  ⟨rfl, rfl⟩

theorem exec_noFrame {s : State} (h : s.rxPending = false) :
    (∀ m : Byte, m ≠ 0 → exec (.radioReceive m) s = .next (answer 0x09 [] s)) ∧
      exec .pipeRecv s = .next (answer 0x09 [] s) := by
  constructor
  · intro m hm
    simp only [exec, execRadioReceive, if_neg hm, h]
    rfl
  · simp only [exec, execPipeRecv, h]
    rfl

theorem exec_notConfigured {s : State} (h : s.configured = false) :
    (∀ d : List Byte, d ≠ [] → exec (.radioTransmit d) s = .next (answer 0x08 [] s)) ∧
      exec .radioRxStart s = .next (answer 0x08 [] s) ∧
      exec .pipeSend s = .next (answer 0x08 [] s) ∧
      (s.radioMode = .standby → exec .radioWake s = .next (answer 0x08 [] s)) := by
  refine ⟨fun d hd => ?_, ?_, ?_, fun hmode => ?_⟩
  · simp only [exec, execRadioTransmit, if_neg (mt List.eq_nil_of_length_eq_zero hd), h]
    rfl
  · simp only [exec, execRadioRxStart, h]
    rfl
  · simp only [exec, execPipeSend, h]
    rfl
  · simp only [exec, execRadioWake, hmode, wakeToReceive, h]
    rfl

theorem exec_pipeSend_empty {s : State} (hc : s.configured = true) (hq : s.txq = []) :
    exec .pipeSend s = .next (answer 0x03 [] s) := by
  simp only [exec, execPipeSend, hc, if_true, hq]
  rfl

/-- Settles O29, check by check, in the order of R342. -/
theorem refusalsChangeNothing : Obligations.RefusalsChangeNothing := by
  unfold Obligations.RefusalsChangeNothing
  intro s
  obtain ⟨htransmit, hreceive⟩ := exec_zeroLength s
  exact ⟨htransmit, hreceive, exec_noFrame, exec_notConfigured, exec_pipeSend_empty⟩

end Sys2Proof.Proofs.CommandPort
end

section
/-! PROOFS. The CRC generator of 40_crc.md: `crc16` is affine over GF(2) and no single-bit flip goes unseen
(rule R154), its check values (rule R152), and what the command CRC16 answers (rule R155). Both halves of R154
follow from how the register and the byte enter one turn of the outer loop: linearly, and injectively where
the generator has the constant term 1. -/

namespace Sys2Proof.Proofs.Crc

open Sys2Proof Sys2Proof.Machine

/-! ## The parts of `crc16` (rule R152) -/

/-- What one input byte adds to the register: the byte, reflected where `P_CRC_REFIN` says so, at its top. -/
def byteTerm (p : Params) (b : Byte) : Half :=
  (if p.crcRefIn then reflect b else b).setWidth 16 <<< 8

/-- The register as it leaves the loops, reflected where `P_CRC_REFOUT` says so. -/
def outTerm (p : Params) (reg : Half) : Half := if p.crcRefOut then reflect reg else reg

theorem crcByte_eq (p : Params) (reg : Half) (b : Byte) :
    crcByte p reg b = crcBits p.crcPoly 8 (reg ^^^ byteTerm p b) := rfl

theorem crcReg_cons (p : Params) (reg : Half) (b : Byte) (data : List Byte) :
    crcReg p reg (b :: data) = crcReg p (crcByte p reg b) data := rfl

theorem crcReg_append (p : Params) (reg : Half) (pre post : List Byte) :
    crcReg p reg (pre ++ post) = crcReg p (crcReg p reg pre) post := List.foldl_append

theorem crc16_eq (p : Params) (data : List Byte) :
    crc16 p data = outTerm p (crcReg p p.crcInit data) ^^^ p.crcXorOut := rfl

/-! ## Linearity -/

theorem byteTerm_xor (p : Params) (a b : Byte) :
    byteTerm p (a ^^^ b) = byteTerm p a ^^^ byteTerm p b := by
  cases h : p.crcRefIn <;>
    simp only [byteTerm, h, if_true, Bool.false_eq_true, if_false, reflect_xor, BitVec.setWidth_xor,
      BitVec.shiftLeft_xor_distrib]

theorem outTerm_xor (p : Params) (x y : Half) : outTerm p (x ^^^ y) = outTerm p x ^^^ outTerm p y := by
  cases h : p.crcRefOut <;> simp only [outTerm, h, if_true, Bool.false_eq_true, if_false, reflect_xor]

/-- One turn of the outer loop is linear in the register and the byte together. -/
theorem crcByte_xor (p : Params) (x y : Half) (a b : Byte) :
    crcByte p (x ^^^ y) (a ^^^ b) = crcByte p x a ^^^ crcByte p y b := by
  simp only [crcByte_eq, byteTerm_xor, ← crcBits_xor]
  congr 1
  ac_rfl

/-- The outer loop is linear in the register it starts from and the data together. -/
theorem crcReg_xor (p : Params) {a b : List Byte} (h : a.length = b.length) (x y : Half) :
    crcReg p (x ^^^ y) (List.zipWith (· ^^^ ·) a b) = crcReg p x a ^^^ crcReg p y b := by
  induction a generalizing b x y with
  | nil =>
    obtain rfl : b = [] := List.eq_nil_of_length_eq_zero h.symm
    rfl
  | cons a as ih =>
    cases b with
    | nil => cases h
    | cons b bs =>
      simp only [List.zipWith_cons_cons, crcReg_cons, crcByte_xor]
      exact ih (Nat.succ.inj h) _ _

/-- Settles O16: of the three inputs' constants `P_CRC_INIT` and `P_CRC_XOROUT`, one of each stays. -/
theorem crc16Affine : Obligations.Crc16Affine := by
  unfold Obligations.Crc16Affine
  intro p a b c hab hbc
  have hlen : a.length = (List.zipWith (· ^^^ ·) b c).length := by
    rw [List.length_zipWith, ← hbc, Nat.min_self, hab]
  have hreg : crcReg p p.crcInit (List.zipWith (· ^^^ ·) a (List.zipWith (· ^^^ ·) b c)) =
      crcReg p p.crcInit a ^^^ (crcReg p p.crcInit b ^^^ crcReg p p.crcInit c) := by
    rw [← crcReg_xor p hbc, ← crcReg_xor p hlen, BitVec.xor_self, BitVec.xor_zero]
  calc crc16 p (List.zipWith (· ^^^ ·) a (List.zipWith (· ^^^ ·) b c))
      = outTerm p (crcReg p p.crcInit a) ^^^ (outTerm p (crcReg p p.crcInit b) ^^^
          outTerm p (crcReg p p.crcInit c)) ^^^ (p.crcXorOut ^^^ (p.crcXorOut ^^^ p.crcXorOut)) := by
        rw [crc16_eq, hreg, outTerm_xor, outTerm_xor, BitVec.xor_self, BitVec.xor_zero]
    _ = crc16 p a ^^^ crc16 p b ^^^ crc16 p c := by
        simp only [crc16_eq]
        ac_rfl

/-! ## Injectivity -/

theorem reflect_injective {n : Nat} : Function.Injective (reflect (n := n)) :=
  Function.LeftInverse.injective reflect_reflect

theorem outTerm_injective (p : Params) : Function.Injective (outTerm p) := by
  intro x y h
  unfold outTerm at h
  split at h
  · exact reflect_injective h
  · exact h

/-- A byte survives its move to the top of the register. -/
theorem setWidth_shiftLeft_injective :
    Function.Injective fun b : Byte => (b.setWidth 16 <<< 8 : Half) := by
  intro a b h
  ext i hi
  have hbit := congrArg (BitVec.getLsbD · (i + 8)) h
  have h16 : i + 8 < 16 := by omega
  have h8 : i < 16 := by omega
  simpa [h16, h8, BitVec.getLsbD_eq_getElem hi] using hbit

theorem byteTerm_injective (p : Params) : Function.Injective (byteTerm p) := by
  intro a b h
  have h' := setWidth_shiftLeft_injective h
  split at h'
  · exact reflect_injective h'
  · exact h'

section OddGenerator

variable {p : Params} (hp : p.crcPoly.getLsbD 0 = true)
include hp

/-- Two registers that differ still differ after the same byte. -/
theorem crcByte_injective_reg (b : Byte) : Function.Injective (crcByte p · b) := fun _ _ h =>
  (BitVec.xor_left_inj _).1 (crcBits_injective hp 8 h)

/-- Two bytes that differ send one register to two that differ. -/
theorem crcByte_injective_byte (reg : Half) : Function.Injective (crcByte p reg) := fun _ _ h =>
  byteTerm_injective p ((BitVec.xor_right_inj _).1 (crcBits_injective hp 8 h))

/-- Two registers that differ still differ after the same data. -/
theorem crcReg_injective_reg (data : List Byte) : Function.Injective (crcReg p · data) := by
  induction data with
  | nil => exact fun _ _ h => h
  | cons b bs ih => exact fun _ _ h => crcByte_injective_reg hp b (ih h)

/-- With an odd generator `crc16` tells any two inputs apart that differ in one byte. -/
theorem crc16_injective_at_byte (pre post : List Byte) :
    Function.Injective fun b : Byte => crc16 p (pre ++ [b] ++ post) := by
  intro a b h
  simp only [crc16_eq, crcReg_append] at h
  have hreg := outTerm_injective p ((BitVec.xor_left_inj _).1 h)
  exact crcByte_injective_byte hp _ (crcReg_injective_reg hp post hreg)

end OddGenerator

theorem xor_bit_ne_self {j : Nat} (hj : j < 8) (b : Byte) : b ^^^ (1#8 <<< j) ≠ b := by
  intro h
  have hbit := congrArg (BitVec.getLsbD · j) h
  simp [hj] at hbit

/-- Settles O17: a flipped bit is a byte that differs, and 0x1021 has the constant term 1. -/
theorem crc16SingleBitFlip : Obligations.Crc16SingleBitFlip := by
  unfold Obligations.Crc16SingleBitFlip
  intro p pre post b j hpoly hj
  have hodd : p.crcPoly.getLsbD 0 = true := by rw [hpoly]; rfl
  exact (crc16_injective_at_byte hodd pre post).ne (xor_bit_ne_self hj b)

/-! ## The check values and the command (rules R152, R155) -/

/-- `crc16` reads none of the parameters that the variant and the configuration registers set. -/
theorem crc16_defaults (v : Variant) (r : CfgRegs) (data : List Byte) :
    crc16 (Config.defaults v r) data = crc16 (Config.defaults .A Config.zeroCfg) data := rfl

/-- Settles O18, by running the generator at one setting of the parameters it does not read. -/
theorem crc16CheckValues : Obligations.Crc16CheckValues := by
  unfold Obligations.Crc16CheckValues
  intro v r
  rw [crc16_defaults v r, crc16_defaults v r]
  decide +kernel

/-- Settles O19: the command responds with the status OK and nothing else happens. -/
theorem crc16CommandResult : Obligations.Crc16CommandResult := by
  unfold Obligations.Crc16CommandResult
  intro data s
  simp only [exec, execCrc16, respond_ok]

end Sys2Proof.Proofs.Crc
end

section
/-! PROOFS. The packet codec of 41_codec.md: `unframe` and `frame` are inverse to each other (rules R171, R176),
a packet as PKT_BUILD makes it is valid, and what the four codec commands answer (rules R172 to R175). -/

namespace Sys2Proof.Proofs.Codec

open Sys2Proof Sys2Proof.Machine

/-! ## Frames (rule R171) -/

theorem frame_length (p : Packet) : (frame p).length = 9 := by
  simp only [frame, payload, List.length_append, List.length_cons, List.length_nil, be32_length, be16_length]

/-- `payload`, with each of its three parts a list. -/
theorem payload_eq (p : Packet) :
    payload p = [p.nodeId] ++ be32 p.timestamp ++ [p.eventType, p.batteryLevel] := rfl

theorem unframe_nine (f0 f1 f2 f3 f4 f5 f6 f7 f8 : Byte) :
    unframe [f0, f1, f2, f3, f4, f5, f6, f7, f8] =
      ⟨f0, fromBe32 f1 f2 f3 f4, f5, f6, fromBe16 f7 f8⟩ := rfl

theorem unframe_frame (p : Packet) : unframe (frame p) = p := by
  simp only [frame, payload, be32, be16, List.cons_append, List.nil_append, unframe_nine, fromBe32_be32,
    fromBe16_be16]

theorem frame_unframe : ∀ {f : List Byte}, f.length = 9 → frame (unframe f) = f
  | [_, _, _, _, _, _, _, _, _], _ => by
    simp only [unframe_nine, frame, payload, be32_fromBe32, be16_fromBe16, List.cons_append, List.nil_append]

/-! ## Validity (rule R175) -/

theorem packetValid_iff (par : Params) (p : Packet) :
    packetValid par p = true ↔ crc16 par (payload p) = p.crc := beq_iff_eq

/-- The payload leaves the CRC field out, so a packet built with its CRC is valid. -/
theorem packetValid_buildPacket (par : Params) (n : Byte) (ts : Word) (e b : Byte) :
    packetValid par (buildPacket par n ts e b) = true := (packetValid_iff _ _).2 rfl

/-! ## The commands (rules R172 to R175) -/

theorem exec_pktBuild (n : Byte) (ts : Word) (e b : Byte) (s : State) :
    exec (.pktBuild n ts e b) s =
      .next (answer 0x00 [] { s with pkt := buildPacket s.par n ts e b }) := rfl

theorem exec_pktSerialize (s : State) : exec .pktSerialize s = .next (answer 0x00 (frame s.pkt) s) := rfl

theorem exec_pktDeserialize (f : List Byte) (s : State) :
    exec (.pktDeserialize f) s = .next (answer 0x00 [] { s with pkt := unframe f }) := rfl

theorem exec_pktValidate (s : State) :
    exec .pktValidate s = .next (answer 0x00 [if packetValid s.par s.pkt then 1 else 0] s) := rfl

/-- Settles O21: the packet is read back from its own frame, and its CRC is the one it was built with. -/
theorem codecRoundTrip : Obligations.CodecRoundTrip := by
  unfold Obligations.CodecRoundTrip
  refine ⟨fun p => ⟨frame_length p, unframe_frame p⟩, fun _ => frame_unframe, fun s n ts e b => ?_⟩
  refine ⟨_, _, _, _, frame (buildPacket s.par n ts e b), exec_pktBuild n ts e b s, exec_pktSerialize _, rfl,
    frame_length _, exec_pktDeserialize _ _, unframe_frame _, exec_pktValidate _, ?_⟩
  simp only [answer, unframe_frame, packetValid_buildPacket, if_true]

/-- Settles O20, command by command, with the payload and the frame written out. -/
theorem codecCommandResults : Obligations.CodecCommandResults := by
  unfold Obligations.CodecCommandResults
  intro s
  refine ⟨fun n ts e b => ?build, ?serialize, fun f0 f1 f2 f3 f4 f5 f6 f7 f8 => ?deserialize, ?validate⟩
  case build => simp only [exec_pktBuild, buildPacket, payload_eq]
  case serialize => simp only [exec_pktSerialize, frame, payload_eq]
  case deserialize => rw [exec_pktDeserialize, unframe_nine]
  case validate => simp only [exec_pktValidate, packetValid_iff, payload_eq]

end Sys2Proof.Proofs.Codec
end

section
/-! PROOFS. The invariants of the transceiver sequencer of 42_transceiver.md that hold in both variants: a frame is
pending only in ReceivingContinuous (rule R195), the sample count of a busy wait stays below its ceiling (rule
R194), and RADIO_INIT marks the radio configured exactly where it ends with OK (rules R205, R206). -/

namespace Sys2Proof.Proofs.RadioInvariants

open Sys2Proof Sys2Proof.Machine Sys2Proof.Proofs.StateElements

/-! ## Steps that touch the sequencer -/

/-- The elements that the invariants of the sequencer read are the same in `s` and `t`. -/
def sequencerAgrees (s t : State) : Prop :=
  t.par = s.par ∧ t.phase = s.phase ∧ t.radioMode = s.radioMode ∧ t.rxPending = s.rxPending

/-- The clock, the debouncer, the host's read and TxDone leave the sequencer alone, so an invariant of it is kept
if a received frame, the end of a wait, a wake, a reset and the start and the end of a command keep it. -/
theorem step_keeps_sequencer {I : State → Prop} (hcongr : ∀ s t, sequencerAgrees s t → I s → I t)
    (hrx : ∀ f raw s, I s → I (rxDoneStep f raw s))
    (hwait : ∀ c k l w s, s.phase = .running c k l w → I s → I (resumeWait c k l w s))
    (hreset : ∀ s, I s → I (resetBlock s)) (hends : ∀ st pl s, I s → I (respond st pl s))
    (hexec : ∀ i s t, I s → exec i s = .next t → I t) {s t : State} (hs : I s) (h : step s = .next t) :
    I t := by
  refine step_keeps (I := I) (fun s e => hcongr s _ ⟨rfl, rfl, rfl, rfl⟩) ?read ?tick ?trigger hrx ?tx hreset
    (fun i s t hs _ _ => hexec i _ t (hcongr s _ ⟨rfl, rfl, rfl, rfl⟩ hs))
    (fun s hs _ _ => hends _ _ _ (hcongr s _ ⟨rfl, rfl, rfl, rfl⟩ hs))
    (fun b s hs _ _ _ => hcongr s _ ⟨rfl, rfl, rfl, rfl⟩ hs) hs h
  case read =>
    intro s
    obtain ⟨r, e, h'⟩ := hostReadStep_frame s
    rw [h']
    exact hcongr s _ ⟨rfl, rfl, rfl, rfl⟩
  case tick =>
    exact tickStep_to (fun s => by rw [advanceClock_eq]; exact hcongr s _ ⟨rfl, rfl, rfl, rfl⟩)
      (fun _ h => h) hwait
  case trigger =>
    refine triggerStep_to ?_ (fun c k l t s _ hs => hends .ok [0x02] (notify { s with pwrState := .active })
      (hcongr s _ ⟨rfl, rfl, rfl, rfl⟩ hs)) hreset
    intro s
    rcases debounceTrigger_cases s with ⟨-, h'⟩ | ⟨-, -, h'⟩ | ⟨-, -, h'⟩ <;> rw [h'] <;>
      exact hcongr s _ ⟨rfl, rfl, rfl, rfl⟩
  case tx =>
    intro s
    obtain ⟨r, h'⟩ := txDoneStep_frame s
    rw [h']
    exact hcongr s _ ⟨rfl, rfl, rfl, rfl⟩

/-! ## A pending frame (rule R195) -/

/-- A completed `SetMode` clears `rx_pending` unless it enters ReceivingContinuous, and `ClearIrq` clears it. -/
theorem pendingOnlyInReceive_opCompleted {s : State} (h : pendingOnlyInReceive s) (op : RadioOp) (r : Radio)
    (e : Env) : pendingOnlyInReceive (opCompleted op r e s) := by
  cases op with
  | setMode m =>
    cases m with
    | rxCont => exact fun _ => rfl
    | _ => exact fun hp => absurd hp Bool.false_ne_true
  | clearIrq => exact fun hp => absurd hp Bool.false_ne_true
  | _ => exact h

/-- Of the lines of a command only the radio ops write the mode or `rx_pending`. -/
theorem pendingOnlyInReceive_stepMicro {s : State} (h : pendingOnlyInReceive s) (c : Instr) (k : List Micro)
    (m : Micro) (l : Locals) :
    progressTo pendingOnlyInReceive pendingOnlyInReceive (stepMicro c k m l s) := by
  rcases stepMicro_cases c k m l s with ⟨op, -, h'⟩ | h' | ⟨-, h'⟩ | ⟨-, h'⟩ | ⟨-, h'⟩ | ⟨-, h'⟩ |
    ⟨_, _, -, h'⟩ | ⟨_, -, h'⟩ | ⟨-, h'⟩ | ⟨_, -, h'⟩ <;> rw [h']
  · exact radioIssue_to (fun r e => pendingOnlyInReceive_opCompleted h op r e) (fun _ _ _ _ _ _ => h)
      (fun _ _ _ _ => h) (fun _ _ _ _ => h)
  · exact h
  · exact h
  · exact h
  · exact h
  · exact h
  · exact h
  · exact h
  · show pendingOnlyInReceive (deliverFrame l s)
    rcases deliverFrame_cases l s with h' | ⟨-, h'⟩ | h' <;> rw [h'] <;> exact h
  · exact h

theorem pendingOnlyInReceive_runLines {s : State} (h : pendingOnlyInReceive s) (c : Instr) (k : List Micro)
    (l : Locals) : pendingOnlyInReceive (runLines c k l s) :=
  runLines_to (fun m k' l _ _ hu => pendingOnlyInReceive_stepMicro hu c k' m l) (fun _ hu => hu) l s h

theorem pendingOnlyInReceive_continueWith {c : Instr} {k : List Micro} {p : Progress}
    (h : progressTo pendingOnlyInReceive pendingOnlyInReceive p) :
    pendingOnlyInReceive (continueWith c k p) :=
  continueWith_to (fun m k' l _ _ hu => pendingOnlyInReceive_stepMicro hu c k' m l) (fun _ hu => hu) p h

/-- A reset leaves no frame pending. -/
theorem pendingOnlyInReceive_resetBlock (s : State) : pendingOnlyInReceive (resetBlock s) :=
  fun hp => absurd hp Bool.false_ne_true

theorem pendingOnlyInReceive_resumeWait {s : State} (h : pendingOnlyInReceive s) (c : Instr) (k : List Micro)
    (l : Locals) (w : Wait) : pendingOnlyInReceive (resumeWait c k l w s) := by
  rcases resumeWait_cases c k l w s with ⟨op, n, -, h'⟩ | ⟨m, n, -, h'⟩ | ⟨t, -, h' | h' | h'⟩ |
    ⟨t, -, h' | h'⟩ | ⟨t, -, h' | h'⟩ <;> rw [h']
  · exact pendingOnlyInReceive_continueWith (awaitReady_to
      (fun r e => pendingOnlyInReceive_opCompleted h op r e) (fun _ _ _ _ => h) (fun _ _ _ => h)
      (fun _ _ _ => h))
  · exact pendingOnlyInReceive_continueWith (awaitReadback_to
      (fun e => pendingOnlyInReceive_opCompleted h (.setMode m) s.radio e) (fun _ _ => h) (fun _ _ => h)
      (fun _ _ => h))
  · exact pendingOnlyInReceive_runLines h c k l
  · exact pendingOnlyInReceive_runLines (s := recordTxTimeout s) h c transmitTimeoutBody l
  · exact h
  · exact h
  · exact h
  · exact pendingOnlyInReceive_resetBlock s
  · exact h

/-- A command that answers at once leaves the mode and `rx_pending` alone; a body starts with both as the
command found them. -/
theorem pendingOnlyInReceive_exec {i : Instr} {s t : State} (hs : pendingOnlyInReceive s)
    (h : exec i s = .next t) : pendingOnlyInReceive t := by
  rcases exec_cases i s with ⟨st, pl, u, hx, -, -, -, -, -, -, -, hmode, hpend, -⟩ | ⟨k, l, u, hx, hu⟩
  · obtain rfl := Host.Outcome.next.inj (hx.symm.trans h)
    intro hp
    rw [respond_rxPending, hpend] at hp
    rw [respond_radioMode, hmode]
    exact hs hp
  · obtain rfl := Host.Outcome.next.inj (hx.symm.trans h)
    obtain ⟨_, _, _, _, _, rfl, -⟩ := startsRun_frame hu
    exact pendingOnlyInReceive_runLines (by exact hs) i k l

/-- RxDone sets `rx_pending` only in ReceivingContinuous (10_state.md rule R58). -/
theorem pendingOnlyInReceive_rxDoneStep {s : State} (h : pendingOnlyInReceive s) (f : List Byte) (raw : Byte) :
    pendingOnlyInReceive (rxDoneStep f raw s) := by
  unfold rxDoneStep
  split
  · next hrx => exact fun _ => hrx.1
  · exact h

/-- Settles O44: of the steps that touch the sequencer, each that sets `rx_pending` or leaves it set finds or
enters ReceivingContinuous. -/
theorem pendingStaysOnlyInReceive : Obligations.PendingStaysOnlyInReceive := by
  unfold Obligations.PendingStaysOnlyInReceive
  intro s t
  refine step_keeps_sequencer (I := pendingOnlyInReceive) ?_
    (fun f raw _ hs => pendingOnlyInReceive_rxDoneStep hs f raw)
    (fun c k l w _ _ hs => pendingOnlyInReceive_resumeWait hs c k l w)
    (fun s _ => pendingOnlyInReceive_resetBlock s) (fun _ _ _ hs => hs)
    (fun _ _ _ => pendingOnlyInReceive_exec)
  rintro s t ⟨-, -, hmode, hpend⟩ hs
  unfold pendingOnlyInReceive
  rwa [hmode, hpend]

/-! ## The sample count of a busy wait (rule R194) -/

/-- The wait `w` that a command suspends in is no busy wait, or a busy wait of variant B with a count below the
ceiling. -/
def waitBounded (p : Params) : Wait → Prop
  | .ready _ n => p.variant = .B ∧ 1 ≤ n.toNat ∧ n.toNat < p.busyRetryMax
  | .readback _ n => p.variant = .B ∧ 1 ≤ n.toNat ∧ n.toNat < p.busyRetryMax
  | _ => True

theorem busySamplesBounded_running {s : State} {c : Instr} {k : List Micro} {l : Locals} {w : Wait}
    (hp : s.phase = .running c k l w) : busySamplesBounded s ↔ waitBounded s.par w := by
  unfold busySamplesBounded
  rw [hp]
  cases w <;> rfl

theorem busySamplesBounded_suspend (c : Instr) (k : List Micro) (l : Locals) (w : Wait) (s : State) :
    busySamplesBounded (suspend c k l w s) ↔ waitBounded s.par w := busySamplesBounded_running rfl

/-- With no command suspended there is nothing to bound. -/
theorem busySamplesBounded_idle {s : State} (hp : s.phase = .idle) : busySamplesBounded s := by
  unfold busySamplesBounded
  rw [hp]
  trivial

theorem busySamplesBounded_respond (st : Status) (pl : List Byte) (s : State) :
    busySamplesBounded (respond st pl s) := busySamplesBounded_idle rfl

/-- The bounds of a well-formed build that the count needs. -/
theorem busyRetryMax_of_wf {p : Params} (h : p.wf = true) : 1 ≤ p.busyRetryMax ∧ p.busyRetryMax ≤ 256 := by
  simp only [Params.wf, Bool.and_eq_true, decide_eq_true_eq] at h
  omega

/-- The first sample of a wait is below a ceiling that it does not meet. -/
theorem waitBounded_first {p : Params} (hv : p.variant = .B) (hmin : 1 ≤ p.busyRetryMax)
    (hmax : 1 ≠ p.busyRetryMax) : (∀ op, waitBounded p (.ready op 1)) ∧ ∀ m, waitBounded p (.readback m 1) :=
  have h : p.variant = .B ∧ 1 ≤ (1#8).toNat ∧ (1#8).toNat < p.busyRetryMax :=
    ⟨hv, Nat.le_refl 1, Nat.lt_of_le_of_ne hmin hmax⟩
  ⟨fun _ => h, fun _ => h⟩

/-- One more sample that does not meet the ceiling is counted in 8 bits and stays below it. -/
theorem samples_succ_lt {n : Byte} {max : Nat} (hn : n.toNat < max) (hne : n.toNat + 1 ≠ max)
    (hmax : max ≤ 256) :
    1 ≤ (BitVec.ofNat 8 (n.toNat + 1)).toNat ∧ (BitVec.ofNat 8 (n.toNat + 1)).toNat < max := by
  rw [BitVec.toNat_ofNat, Nat.mod_eq_of_lt (by omega)]
  omega

/-- A line suspends a command in the transmit wait, a sleep wait, or at the first sample of a busy wait. -/
theorem busySamplesBounded_stepMicro {s : State} (h : 1 ≤ s.par.busyRetryMax) (c : Instr) (k : List Micro)
    (m : Micro) (l : Locals) :
    progressTo (fun u => 1 ≤ u.par.busyRetryMax) busySamplesBounded (stepMicro c k m l s) := by
  rcases stepMicro_cases c k m l s with ⟨op, -, h'⟩ | h' | ⟨-, h'⟩ | ⟨-, h'⟩ | ⟨-, h'⟩ | ⟨-, h'⟩ |
    ⟨_, _, -, h'⟩ | ⟨_, -, h'⟩ | ⟨-, h'⟩ | ⟨_, -, h'⟩ <;> simp only [h', progressTo]
  · refine radioIssue_to (fun r e => by cases op <;> exact h) ?_ (fun _ _ _ _ => h)
      (fun _ _ _ _ => busySamplesBounded_respond _ _ _)
    intro r e w hv hne hw
    obtain ⟨hready, hback⟩ := waitBounded_first hv h hne
    rw [busySamplesBounded_suspend]
    obtain rfl | ⟨m, -, rfl⟩ := hw
    · exact hready op
    · exact hback m
  · exact h
  · exact busySamplesBounded_respond _ _ _
  · exact h
  · exact (busySamplesBounded_suspend c k l _ s).2 trivial
  · exact busySamplesBounded_respond _ _ _
  · exact h
  · exact busySamplesBounded_respond _ _ _
  · refine busySamplesBounded_idle ?_
    rcases deliverFrame_cases l s with h' | ⟨-, h'⟩ | h' <;> rw [h'] <;> rfl
  · exact (busySamplesBounded_suspend c k l _ _).2 trivial

theorem busySamplesBounded_runLines {s : State} (h : 1 ≤ s.par.busyRetryMax) (c : Instr) (k : List Micro)
    (l : Locals) : busySamplesBounded (runLines c k l s) :=
  runLines_to (fun m k' l _ _ hu => busySamplesBounded_stepMicro hu c k' m l)
    (fun _ _ => busySamplesBounded_idle rfl) l s h

theorem busySamplesBounded_continueWith {c : Instr} {k : List Micro} {p : Progress}
    (h : progressTo (fun u => 1 ≤ u.par.busyRetryMax) busySamplesBounded p) :
    busySamplesBounded (continueWith c k p) :=
  continueWith_to (fun m k' l _ _ hu => busySamplesBounded_stepMicro hu c k' m l)
    (fun _ _ => busySamplesBounded_idle rfl) p h

/-- A tick's sample in a busy wait ends the wait, begins the read-back of its op, or is counted. -/
theorem busySamplesBounded_resumeWait {s : State} {c : Instr} {k : List Micro} {l : Locals} {w : Wait}
    (hwf : s.par.wf = true) (hp : s.phase = .running c k l w) (hs : busySamplesBounded s) :
    busySamplesBounded (resumeWait c k l w s) := by
  obtain ⟨hmin, hmax⟩ := busyRetryMax_of_wf hwf
  rcases resumeWait_cases c k l w s with ⟨op, n, rfl, h'⟩ | ⟨m, n, rfl, h'⟩ | ⟨t, -, h' | h' | h'⟩ |
    ⟨t, -, h' | h'⟩ | ⟨t, -, h' | h'⟩ <;> rw [h']
  · obtain ⟨hv, -, hn⟩ := (busySamplesBounded_running hp).1 hs
    refine busySamplesBounded_continueWith (awaitReady_to (fun r e => by cases op <;> exact hmin) ?_
      (fun _ _ _ => hmin) (fun _ _ _ => busySamplesBounded_respond _ _ _))
    rintro r e w (⟨rfl, hne⟩ | ⟨m, -, rfl, hne⟩) <;> rw [busySamplesBounded_suspend]
    · exact ⟨hv, samples_succ_lt hn hne hmax⟩
    · exact (waitBounded_first hv hmin hne).2 m
  · obtain ⟨hv, -, hn⟩ := (busySamplesBounded_running hp).1 hs
    exact busySamplesBounded_continueWith (awaitReadback_to (fun _ => hmin)
      (fun _ hne => (busySamplesBounded_suspend _ _ _ _ _).2 ⟨hv, samples_succ_lt hn hne hmax⟩)
      (fun _ _ => hmin) (fun _ _ => busySamplesBounded_respond _ _ _))
  · exact busySamplesBounded_runLines hmin c k l
  · exact busySamplesBounded_runLines (s := recordTxTimeout s) hmin c transmitTimeoutBody l
  · exact hs
  · exact busySamplesBounded_idle rfl
  · exact hs
  · exact busySamplesBounded_idle rfl
  · exact hs

/-- A command begun at an Idle port: it ends, or its body suspends in its first wait. -/
theorem busySamplesBounded_exec {i : Instr} {s t : State} (hwf : s.par.wf = true) (h : exec i s = .next t) :
    busySamplesBounded t := by
  rcases exec_leaves h with ⟨st, pl, u, rfl, -⟩ | ⟨k, l, u, rfl, hu⟩
  · exact busySamplesBounded_idle rfl
  · obtain ⟨_, _, _, _, _, rfl, -⟩ := startsRun_frame hu
    exact busySamplesBounded_runLines (by exact (busyRetryMax_of_wf hwf).1) i k l

/-- Settles O46, with the parameters' own bounds carried along: no step writes the parameters. -/
theorem busySamplesStayBounded : Obligations.BusySamplesStayBounded := by
  unfold Obligations.BusySamplesStayBounded
  intro s t hwf hs h
  refine (step_keeps_sequencer (I := fun s => s.par.wf = true ∧ busySamplesBounded s) ?congr ?rx
    (fun c k l w s hp ⟨hwf, hs⟩ => ⟨by rwa [resumeWait_par], busySamplesBounded_resumeWait hwf hp hs⟩)
    (fun s ⟨hwf, _⟩ => ⟨hwf, busySamplesBounded_idle rfl⟩)
    (fun _ _ s ⟨hwf, _⟩ => ⟨hwf, busySamplesBounded_idle rfl⟩) ?exec ⟨hwf, hs⟩ h).2
  case congr =>
    rintro s t ⟨hpar, hphase, -⟩ ⟨hwf, hs⟩
    unfold busySamplesBounded
    rw [hpar, hphase]
    exact ⟨hwf, hs⟩
  case rx =>
    intro f raw s hs
    obtain ⟨p, r, h'⟩ := rxDoneStep_frame f raw s
    rw [h']
    exact hs
  case exec =>
    rintro i s t ⟨hwf, -⟩ h
    obtain ⟨hpar, -⟩ := commandsWriteOnlyTheirRegisters i s t h
    exact ⟨by rwa [hpar], busySamplesBounded_exec hwf h⟩

/-! ## RADIO_INIT (rules R205, R206) -/

/-- The lines RADIO_INIT has still to run while the radio is unconfigured. -/
def unconfiguredLines : List (List Micro) :=
  [initBody, [.failAbsent, .toStandby, .configure, .setConfigured, .respondOk],
    [.toStandby, .configure, .setConfigured, .respondOk], [.configure, .setConfigured, .respondOk],
    [.setConfigured, .respondOk]]

/-- RADIO_INIT about to run the lines `k`: unanswered, and configured only before its last line. -/
def initAboutToRun (k : List Micro) (s : State) : Prop :=
  s.resp = none ∧
    (k ∈ unconfiguredLines ∧ s.configured = false ∨ k = [.respondOk] ∧ s.configured = true)

/-- What a step of RADIO_INIT leaves: suspended in a busy wait and unconfigured, or ended, and configured exactly
with OK. -/
def initOutcome (s : State) : Prop :=
  initPending s ∧ (s.configured = true ↔ s.phase = .idle ∧ s.resp = some [0x00])

/-- RADIO_INIT's end, in the state `s` it responds from. -/
theorem initOutcome_respond {s : State} {st : Status} {pl : List Byte}
    (h : s.configured = true ↔ responseBytes st pl = [0x00]) : initOutcome (respond st pl s) :=
  ⟨nofun, by simpa using h⟩

/-- RADIO_INIT unanswered and unconfigured, with lines to run that a radio op of its body stands before. -/
def initIssuing (k : List Micro) (s : State) : Prop :=
  s.resp = none ∧ s.configured = false ∧
    k ∈ [[Micro.failAbsent, .toStandby, .configure, .setConfigured, .respondOk],
      [.configure, .setConfigured, .respondOk], [.setConfigured, .respondOk]]

theorem initIssuing.aboutToRun {k : List Micro} {s : State} (h : initIssuing k s) : initAboutToRun k s := by
  obtain ⟨hresp, hconf, hk⟩ := h
  refine ⟨hresp, .inl ⟨?_, hconf⟩⟩
  simp only [List.mem_cons, List.not_mem_nil, or_false] at hk
  obtain rfl | rfl | rfl := hk <;> simp [unconfiguredLines]

/-- An op writes neither the response nor `configured`. -/
theorem initIssuing.opCompleted {k : List Micro} {s : State} (h : initIssuing k s) (op : RadioOp) (r : Radio)
    (e : Env) : initAboutToRun k (opCompleted op r e s) := by
  cases op <;> exact h.aboutToRun

theorem initIssuing.suspended {k : List Micro} {s : State} (h : initIssuing k s) (l : Locals) {w : Wait}
    (hw : (∃ op n, w = .ready op n) ∨ ∃ m n, w = .readback m n) :
    initOutcome (suspend .radioInit k l w s) := by
  obtain ⟨hresp, hconf, hk⟩ := h
  refine ⟨?_, by simp [hconf]⟩
  rintro k' l' w' hp
  obtain ⟨-, rfl, rfl, rfl⟩ := Phase.running.inj hp
  exact ⟨hconf, hresp, hk, hw⟩

theorem initIssuing.faulted {k : List Micro} {s : State} (h : initIssuing k s) (r : Radio) (e : Env) :
    initOutcome (respond .eTransport [] (recordTransportFault { s with radio := r, env := e })) :=
  initOutcome_respond (by obtain ⟨-, hconf, -⟩ := h; simp [hconf, responseBytes, statusByte])

/-- A radio op of RADIO_INIT completes, suspends in a busy wait, or ends the command in a transport fault. -/
theorem initIssuing.issue {k : List Micro} {s : State} (h : initIssuing k s) (l : Locals) (op : RadioOp) :
    progressTo (initAboutToRun k) initOutcome (radioIssue .radioInit k l op s) := by
  refine radioIssue_to (fun r e => h.opCompleted op r e) ?_ (fun _ _ _ ⟨_, hb⟩ => nomatch hb)
    (fun r e _ _ => h.faulted r e)
  rintro r e w - - (rfl | ⟨m, -, rfl⟩)
  · exact initIssuing.suspended (s := { s with radio := r, env := e }) h l (.inl ⟨_, _, rfl⟩)
  · exact initIssuing.suspended (s := { s with radio := r, env := e }) h l (.inr ⟨_, _, rfl⟩)

/-- Each line of RADIO_INIT's body goes on as `initAboutToRun` says, or stops as `initOutcome` does: with `E_INIT`
where no radio answers the Probe, and with OK after the last line. -/
theorem initAboutToRun_stepMicro {m : Micro} {k : List Micro} {s : State} (h : initAboutToRun (m :: k) s)
    (l : Locals) : progressTo (initAboutToRun k) initOutcome (stepMicro .radioInit k m l s) := by
  obtain ⟨hresp, ⟨hk, hconf⟩ | ⟨hk, hconf⟩⟩ := h
  · simp only [unconfiguredLines, initBody, List.mem_cons, List.cons.injEq, List.not_mem_nil, or_false] at hk
    obtain ⟨rfl, rfl⟩ | ⟨rfl, rfl⟩ | ⟨rfl, rfl⟩ | ⟨rfl, rfl⟩ | ⟨rfl, rfl⟩ := hk
    · exact initIssuing.issue ⟨hresp, hconf, by simp⟩ l .probe
    · simp only [stepMicro]
      split
      · exact ⟨hresp, .inl ⟨by simp [unconfiguredLines], hconf⟩⟩
      · exact initOutcome_respond (by simp [hconf, responseBytes, statusByte])
    · have hissue : initIssuing [.configure, .setConfigured, .respondOk] s := ⟨hresp, hconf, by simp⟩
      rw [stepMicro_toStandby]
      split
      · exact hissue.aboutToRun
      · exact hissue.issue l _
    · exact initIssuing.issue ⟨hresp, hconf, by simp⟩ l _
    · exact ⟨hresp, .inr ⟨rfl, rfl⟩⟩
  · obtain ⟨rfl, rfl⟩ := List.cons.inj hk
    exact initOutcome_respond (by simp [hconf, responseBytes, statusByte])

theorem initOutcome_runLines {k : List Micro} {s : State} (h : initAboutToRun k s) (l : Locals) :
    initOutcome (runLines .radioInit k l s) := by
  refine runLines_induction (P := fun k _ s => initAboutToRun k s) ?_ ?_ ?_ k l s h
  · intro k m l s l' s' h hm
    have := initAboutToRun_stepMicro h l
    rwa [hm] at this
  · intro k m l s s' h hm
    have := initAboutToRun_stepMicro h l
    rwa [hm] at this
  · rintro l s ⟨-, ⟨hk, -⟩ | ⟨hk, -⟩⟩
    · simp [unconfiguredLines, initBody] at hk
    · cases hk

theorem initOutcome_continueWith {k : List Micro} {p : Progress}
    (h : progressTo (initAboutToRun k) initOutcome p) : initOutcome (continueWith .radioInit k p) := by
  cases p with
  | on l s => exact initOutcome_runLines h l
  | stop s => exact h

/-- The end of a busy wait of RADIO_INIT, or one more sample of it. -/
theorem initIssuing.resumed {k : List Micro} {s : State} (h : initIssuing k s) (l : Locals) {w : Wait}
    (hw : (∃ op n, w = .ready op n) ∨ ∃ m n, w = .readback m n) :
    initOutcome (resumeWait .radioInit k l w s) := by
  obtain ⟨op, n, rfl⟩ | ⟨m, n, rfl⟩ := hw
  · refine initOutcome_continueWith (awaitReady_to (fun r e => h.opCompleted op r e) ?_
      (fun _ _ ⟨_, hb⟩ => nomatch hb) (fun r e _ => h.faulted r e))
    rintro r e w (⟨rfl, -⟩ | ⟨m, -, rfl, -⟩)
    · exact initIssuing.suspended (s := { s with radio := r, env := e }) h l (.inl ⟨_, _, rfl⟩)
    · exact initIssuing.suspended (s := { s with radio := r, env := e }) h l (.inr ⟨_, _, rfl⟩)
  · exact initOutcome_continueWith (awaitReadback_to (fun e => h.opCompleted (.setMode m) s.radio e)
      (fun e _ => initIssuing.suspended (s := { s with env := e }) h l (.inr ⟨_, _, rfl⟩))
      (fun _ ⟨_, hb⟩ => nomatch hb) (fun e _ => h.faulted s.radio e))

/-- Settles O35: the body runs unconfigured up to `s.configured <- 1`, and the one line after that responds with
OK. -/
theorem initConfiguredExactlyIfOk : Obligations.InitConfiguredExactlyIfOk := by
  unfold Obligations.InitConfiguredExactlyIfOk
  constructor
  · rintro s t hresp h
    obtain rfl := Host.Outcome.next.inj h
    exact initOutcome_runLines (s := { s with configured := false })
      ⟨hresp, .inl ⟨List.mem_cons_self, rfl⟩⟩ noLocals
  · intro s k l w hp hs
    obtain ⟨hconf, hresp, hk, hw⟩ := hs k l w hp
    have h : initIssuing k (advanceClock s) := by rw [advanceClock_eq]; exact ⟨hresp, hconf, hk⟩
    rw [tickStep_running hp]
    exact h.resumed l hw

end Sys2Proof.Proofs.RadioInvariants
end

section
/-! PROOFS. The transceiver's commands in variant A, where every radio op completes within the step that issues it
(42_transceiver.md rule R193): what each line that issues an op does to a run, and from that the exact result of
each command; and the RSSI map (rule R199). -/

namespace Sys2Proof.Proofs.VariantARuns

open Sys2Proof Sys2Proof.Machine

/-! ## Commands that pass their checks -/

theorem exec_radioTransmit {s : State} {d : List Byte} (hd : d ≠ []) (hc : s.configured = true) :
    exec (.radioTransmit d) s =
      .next (runLines (.radioTransmit d) transmitBody { noLocals with data := d } s) :=
  congrArg Host.Outcome.next ((if_neg fun h => hd (List.length_eq_zero_iff.1 h)).trans (if_pos hc))

theorem exec_pipeSend {s : State} {p : Packet} {q : List Packet} (hc : s.configured = true)
    (hq : s.txq = p :: q) :
    exec .pipeSend s =
      .next (runLines .pipeSend transmitBody { noLocals with data := frame p } { s with txq := q }) := by
  refine congrArg Host.Outcome.next ((if_pos hc).trans ?_)
  rw [hq]

theorem exec_radioReceive {s : State} {m : Byte} (hm : m ≠ 0) (hp : s.rxPending = true) :
    exec (.radioReceive m) s =
      .next (runLines (.radioReceive m) (receiveBody m ++ [.respondFrame]) noLocals s) :=
  congrArg Host.Outcome.next ((if_neg hm).trans (if_pos hp))

theorem exec_pipeRecv {s : State} (hp : s.rxPending = true) :
    exec .pipeRecv s = .next (runLines .pipeRecv (receiveBody 255 ++ [.deliver]) noLocals s) :=
  congrArg Host.Outcome.next (if_pos hp)

theorem exec_radioWake_sleep {s : State} (hm : s.radioMode = .sleep) :
    exec .radioWake s = .next (runLines .radioWake wakeToStandbyBody noLocals s) := by
  simp only [exec, execRadioWake, hm]

theorem exec_radioWake_standby {s : State} (hm : s.radioMode = .standby) :
    exec .radioWake s = .next (wakeToReceive s) := by
  simp only [exec, execRadioWake, hm]

theorem wakeToReceive_configured {s : State} (hc : s.configured = true) :
    wakeToReceive s = runLines .radioWake wakeToReceiveBody noLocals s := if_pos hc

theorem exec_radioRxStart {s : State} (hc : s.configured = true) (hm : s.radioMode ≠ .receivingContinuous) :
    exec .radioRxStart s = .next (runLines .radioRxStart rxStartBody noLocals s) :=
  congrArg Host.Outcome.next ((if_pos hc).trans (if_neg hm))

/-! ## States after an op -/

/-- `s` after `SetMode(m)` has completed (rule R195). -/
def modeSet (m : ChipMode) (s : State) : State := completeMode m (recordOp (.setMode m) s)

/-- `s` after `ClearIrq` (rule R191). -/
def irqCleared (s : State) : State :=
  { s with rxPending := false
           radio := { s.radio with irqTxDone := false, ops := s.radio.ops ++ [.clearIrq] } }

/-- `s` after `to_standby()` (rule R196). -/
def inStandby (s : State) : State := if s.radioMode = .standby then s else modeSet .standby s

theorem inStandby_eq (s : State) :
    inStandby s =
      { s with radioMode := .standby
               rxPending := decide (s.radioMode = .standby) && s.rxPending
               radio := { s.radio with
                 ops := s.radio.ops ++ if s.radioMode = .standby then [] else [.setMode .standby] } } := by
  by_cases h : s.radioMode = .standby
  · simp only [inStandby, h, decide_true, Bool.true_and, if_true, List.append_nil]
    rw [← h]
  · simp only [inStandby, h, decide_false, Bool.false_and, if_false]
    rfl

/-- Flags cleared, then a mode entered: no frame is pending in any mode. -/
theorem modeSet_irqCleared (m : ChipMode) (s : State) :
    modeSet m (irqCleared s) =
      { s with radioMode := modeAfter m, rxPending := false
               radio := { s.radio with
                 irqTxDone := false, ops := s.radio.ops ++ [.clearIrq, .setMode m] } } := by
  simp [modeSet, irqCleared, completeMode, recordOp]

@[simp] theorem modeSet_par (m : ChipMode) (s : State) : (modeSet m s).par = s.par := rfl
@[simp] theorem irqCleared_par (s : State) : (irqCleared s).par = s.par := rfl
@[simp] theorem modeSet_nowMs (m : ChipMode) (s : State) : (modeSet m s).nowMs = s.nowMs := rfl
@[simp] theorem irqCleared_nowMs (s : State) : (irqCleared s).nowMs = s.nowMs := rfl
@[simp] theorem inStandby_par (s : State) : (inStandby s).par = s.par := by rw [inStandby_eq]
@[simp] theorem inStandby_nowMs (s : State) : (inStandby s).nowMs = s.nowMs := by rw [inStandby_eq]

/-! ## One line of a run -/

theorem runLines_txWait (c : Instr) (k : List Micro) (l : Locals) (s : State) :
    runLines c (.txWait :: k) l s = suspend c k l (.tx s.nowMs) s := rfl

section
variable {s : State} (hA : s.par.variant = .A) (c : Instr) (k : List Micro) (l : Locals)
include hA

/-- A line that issues `op` performs it and goes on. -/
theorem runLines_issue {m : Micro} {op : RadioOp} (hm : lineOp m l s = some op) :
    runLines c (m :: k) l s = continueWith c k (performAtOnce op l s) := by
  have hissue : radioIssue c k l op s = performAtOnce op l s := by simp only [radioIssue, hA]
  simp only [runLines, stepMicro_of_lineOp hm, hissue]
  cases performAtOnce op l s <;> rfl

theorem runLines_setMode (m : ChipMode) :
    runLines c (.radio (.setMode m) :: k) l s = runLines c k l (modeSet m s) :=
  runLines_issue hA c k l (op := .setMode m) rfl

theorem runLines_clearIrq : runLines c (.radio .clearIrq :: k) l s = runLines c k l (irqCleared s) :=
  runLines_issue hA c k l (op := .clearIrq) rfl

theorem runLines_readFrame :
    runLines c (.radio .readFrame :: k) l s =
      runLines c k { l with frame := s.radio.frame, raw := s.radio.rawRssi } (recordOp .readFrame s) :=
  runLines_issue hA c k l (op := .readFrame) rfl

theorem runLines_probe {p : Bool} {rest : List Bool} (hp : s.env.present = p :: rest) :
    runLines c (.radio .probe :: k) l s =
      runLines c k { l with present := p }
        (recordOp .probe { s with env := { s.env with present := rest } }) := by
  have hp' : (recordOp .probe s).env.present = p :: rest := hp
  rw [runLines_issue hA c k l (op := .probe) rfl]
  simp only [performAtOnce, performOp, drawPresent_cons hp']
  rfl

theorem runLines_writePayload :
    runLines c (.writePayload :: k) l s = runLines c k l (recordOp (.writePayload l.data) s) :=
  runLines_issue hA c k l (op := .writePayload l.data) rfl

theorem runLines_configure :
    runLines c (.configure :: k) l s = runLines c k l (recordOp (.configure (linkSettings s.par s.cfg)) s) :=
  runLines_issue hA c k l (op := .configure (linkSettings s.par s.cfg)) rfl

theorem runLines_toStandby : runLines c (.toStandby :: k) l s = runLines c k l (inStandby s) := by
  by_cases h : s.radioMode = .standby
  · simp only [runLines, stepMicro_toStandby, inStandby, if_pos h]
  · rw [runLines_issue hA c k l (m := .toStandby) (op := .setMode .standby) (if_neg h), inStandby, if_neg h]
    rfl

end

/-! ## Bodies (rules R200 to R214) -/

section
variable {s : State} (hA : s.par.variant = .A) (c : Instr) (l : Locals)
include hA

theorem runLines_transmitBody :
    runLines c transmitBody l s =
      suspend c transmitDoneBody l (.tx s.nowMs)
        (modeSet .tx (recordOp (.writePayload l.data) (irqCleared (inStandby s)))) := by
  simp only [transmitBody, List.cons_append, List.nil_append, runLines_toStandby, runLines_clearIrq,
    runLines_writePayload, runLines_setMode, runLines_txWait, inStandby_par, irqCleared_par, recordOp_par,
    modeSet_nowMs, recordOp_nowMs, irqCleared_nowMs, inStandby_nowMs, hA]

theorem runLines_transmitDoneBody :
    runLines c transmitDoneBody l s = answer 0x00 [] (modeSet .standby (irqCleared s)) := by
  rw [transmitDoneBody, runLines_clearIrq hA, runLines_setMode (by exact hA)]
  rfl

theorem runLines_transmitTimeoutBody :
    runLines c transmitTimeoutBody l s = answer 0x05 [] (irqCleared (modeSet .standby s)) := by
  rw [transmitTimeoutBody, runLines_setMode hA, runLines_clearIrq (by exact hA)]
  rfl

theorem runLines_receiveBody (m : Byte) (k : List Micro) :
    runLines c (receiveBody m ++ k) l s =
      runLines c k
        { l with frame := s.radio.frame, raw := s.radio.rawRssi, n := min s.radio.frame.length m.toNat }
        (modeSet .rxCont
          (irqCleared { recordOp .readFrame s with lastRssi := rssiDbm s.par s.radio.rawRssi })) := by
  simp only [receiveBody, List.cons_append, List.nil_append]
  rw [runLines_readFrame hA]
  show runLines c (.radio .clearIrq :: _) _ _ = _
  rw [runLines_clearIrq (by exact hA), runLines_setMode (by exact hA)]
  rfl

theorem runLines_wakeToStandbyBody :
    runLines c wakeToStandbyBody l s = answer 0x00 [] (modeSet .standby s) := by
  rw [wakeToStandbyBody, runLines_setMode hA]
  rfl

theorem runLines_wakeToReceiveBody :
    runLines c wakeToReceiveBody l s = answer 0x00 [] (modeSet .rxCont (irqCleared s)) := by
  rw [wakeToReceiveBody, runLines_clearIrq hA, runLines_setMode (by exact hA)]
  rfl

theorem runLines_rxStartBody :
    runLines c rxStartBody l s = answer 0x00 [] (modeSet .rxCont (irqCleared (inStandby s))) := by
  have hA' : (inStandby s).par.variant = .A := by rw [inStandby_par, hA]
  rw [rxStartBody, runLines_toStandby hA, runLines_clearIrq hA', runLines_setMode (by exact hA')]
  rfl

/-- RADIO_INIT after the Probe has answered (rule R205). -/
theorem runLines_initBody {p : Bool} {rest : List Bool} (hp : s.env.present = p :: rest) :
    runLines c initBody l s =
      if p then
        answer 0x00 [] { recordOp (.configure (linkSettings s.par s.cfg))
          (inStandby (recordOp .probe { s with env := { s.env with present := rest } })) with configured := true }
      else answer 0x07 [] (recordOp .probe { s with env := { s.env with present := rest } }) := by
  rw [initBody, runLines_probe hA _ _ _ hp]
  cases p with
  | false => rfl
  | true =>
    have hcfg : ∀ u, (inStandby u).cfg = u.cfg := fun u => by rw [inStandby_eq]
    show runLines c (.toStandby :: .configure :: _) _ _ = _
    rw [runLines_toStandby (by exact hA), runLines_configure (by rw [inStandby_par]; exact hA), inStandby_par, hcfg]
    rfl

end

/-! ## The obligations -/

/-- Settles O34, by running the body on from the Probe for either answer. -/
theorem radioInitResult : Obligations.RadioInitResult := by
  unfold Obligations.RadioInitResult
  intro s p rest hA hp
  refine congrArg Host.Outcome.next
    ((runLines_initBody (s := { s with configured := false }) hA .radioInit noLocals hp).trans ?_)
  rw [inStandby_eq]
  rfl

/-- Settles O36: both commands run `transmitBody`, PIPE_SEND with the head packet's frame and the packet popped. -/
theorem transmitStarts : Obligations.TransmitStarts := by
  unfold Obligations.TransmitStarts
  intro s hA hconf started hstarted
  have runs : ∀ (c : Instr) (d : List Byte) (u : State), u.par.variant = .A →
      runLines c transmitBody { noLocals with data := d } u = started c d u := by
    intro c d u hu
    rw [runLines_transmitBody hu, hstarted, inStandby_eq]
    simp [modeSet, irqCleared, completeMode, recordOp, suspend, transmitDoneBody, noLocals, modeAfter]
  refine ⟨fun d hd => ?_, fun p q hq => ?_⟩
  · rw [exec_radioTransmit hd hconf, runs _ d s hA]
  · rw [exec_pipeSend hconf hq, runs _ (frame p) _ (by exact hA)]
    rfl

/-- Settles O37: the tick runs `transmitDoneBody`. -/
theorem doneFlagEndsTransmit : Obligations.DoneFlagEndsTransmit := by
  unfold Obligations.DoneFlagEndsTransmit
  intro s sched c l start hA hsched hdone hp
  rw [step_scheduled hsched, agentStep, tickStep_running (by exact hp), advanceClock_eq,
    resumeWait_tx_done c _ l start (by exact hdone)]
  refine congrArg Host.Outcome.next ((runLines_transmitDoneBody (by exact hA) c l).trans ?_)
  rw [modeSet_irqCleared]
  rfl

/-- Settles O39: the frame is read before the flags are cleared. -/
theorem radioReceiveResult : Obligations.RadioReceiveResult := by
  unfold Obligations.RadioReceiveResult
  intro s m hA hm hpend
  rw [exec_radioReceive hm hpend, runLines_receiveBody hA]
  refine congrArg (fun u => Host.Outcome.next (answer 0x00 _ u)) ?_
  simp [modeSet_irqCleared, recordOp, modeAfter]

/-- Settles O40, command by command; in Transmitting, arm by arm of the free choice. -/
theorem radioModeCommandResults : Obligations.RadioModeCommandResults := by
  unfold Obligations.RadioModeCommandResults
  intro s hA
  refine ⟨?sleep, fun hm => ?wakeSleep, fun hm hconf => ?wakeStandby, fun hm => ?wakeReceiving,
    fun hm u hu => ?wakeTransmitting, fun hconf => ?rxStart⟩
  case sleep => exact congrArg Host.Outcome.next (runLines_setMode hA .radioSleep _ noLocals .sleep)
  case wakeSleep =>
    rw [exec_radioWake_sleep hm, runLines_wakeToStandbyBody hA]
    rfl
  case wakeStandby =>
    rw [exec_radioWake_standby hm, wakeToReceive_configured hconf, runLines_wakeToReceiveBody hA,
      modeSet_irqCleared]
    rfl
  case wakeReceiving =>
    simp only [exec, execRadioWake, hm]
    rfl
  case wakeTransmitting =>
    obtain rfl : u = countDraw s := hu
    cases ha : Config.freeWake s.env.draws with
    | toStandby =>
      refine .inl ?_
      simp only [exec, execRadioWake, hm, ha]
      exact congrArg Host.Outcome.next (runLines_wakeToStandbyBody (by exact hA) _ _)
    | toReceive =>
      refine .inr (.inl ?_)
      simp only [exec, execRadioWake, hm, ha]
      refine congrArg Host.Outcome.next (ite_congr rfl (fun _ => ?_) fun _ => rfl)
      rw [runLines_wakeToReceiveBody (by exact hA), modeSet_irqCleared]
      rfl
    | noEffect =>
      refine .inr (.inr ?_)
      simp only [exec, execRadioWake, hm, ha]
      rfl
  case rxStart =>
    by_cases hm : s.radioMode = .receivingContinuous
    · rw [if_pos hm]
      exact congrArg Host.Outcome.next ((if_pos hconf).trans (if_pos hm))
    · rw [if_neg hm, exec_radioRxStart hconf hm, runLines_rxStartBody hA, inStandby_eq,
        modeSet_irqCleared]
      rfl

/-! ## The RSSI map (rule R199) -/

/-- A clamped value fits 16 bits. -/
theorem toInt_ofInt_clampI16 (x : Int) : (BitVec.ofInt 16 (clampI16 x)).toInt = clampI16 x := by
  have hlow : -32768 ≤ clampI16 x := le_max_left _ _
  have hhigh : clampI16 x ≤ 32767 := max_le (by decide) (min_le_left _ _)
  rw [BitVec.toInt_ofInt, Int.bmod_eq_of_le] <;> omega

/-- Clamping leaves a value in range alone. -/
theorem clampI16_of_mem {x : Int} (hlow : -32768 ≤ x) (hhigh : x ≤ 32767) : clampI16 x = x := by
  rw [clampI16, min_eq_right hhigh, max_eq_right hlow]

/-- Settles O41: with the default parameters no value of `raw` is clamped. -/
theorem rssiMapValue : Obligations.RssiMapValue := by
  unfold Obligations.RssiMapValue
  refine ⟨fun p raw _ => toInt_ofInt_clampI16 _, fun r raw => ?_⟩
  have hraw := raw.isLt
  have hA : rssiDbm (Config.defaults .A r) raw = BitVec.ofInt 16 (clampI16 (-157 + raw.toNat)) := by
    simp only [rssiDbm, Config.defaults, one_mul, Int.tdiv_one]
  have hB : rssiDbm (Config.defaults .B r) raw = BitVec.ofInt 16 (clampI16 (-((raw.toNat / 2 : Nat) : Int))) := by
    simp only [rssiDbm, Config.defaults, neg_one_mul, Int.neg_tdiv, zero_add]
    rfl
  rw [hA, hB, toInt_ofInt_clampI16, toInt_ofInt_clampI16, clampI16_of_mem, clampI16_of_mem] <;> omega

end Sys2Proof.Proofs.VariantARuns
end

section
/-! PROOFS. The busy waits of variant B and the transmit timeout (42_transceiver.md rules R194, R202, R204): how
many ticks a ready wait or a read-back wait takes, and what it ends in. -/

namespace Sys2Proof.Proofs.BusyWaits

open Sys2Proof Sys2Proof.Machine Sys2Proof.Proofs.VariantARuns

/-! ## The two busy waits (rule R194) -/

/-- `s` after `j` ticks in a busy wait: besides the time base only the grace latch, the phase and the samples of
`radio.busy` still to come have changed. -/
def waited (j : Nat) (g : Bool) (p : Phase) (samples : List Bool) (s : State) : State :=
  { s with nowMs := s.nowMs + BitVec.ofNat 32 j, graceDone := g, phase := p,
           env := { s.env with busy := samples } }

/-- One busy wait after another. -/
theorem waited_waited (j r : Nat) (g : Bool) (p : Phase) (b : List Bool) (g' : Bool) (p' : Phase) (b' : List Bool)
    (s : State) : waited r g' p' b' (waited j g p b s) = waited (j + r) g' p' b' s := by
  simp only [waited, BitVec.add_assoc, BitVec.ofNat_add]

/-- A transport fault ends every command but PWR_TICK (60_exceptions.md rule R343). -/
theorem transportFault_stops {c : Instr} (hc : ∀ b, c ≠ .pwrTick b) (l : Locals) (s : State) :
    transportFault c l s = .stop (answer 0x06 [] (recordTransportFault s)) := by
  rcases transportFault_cases c l s with ⟨⟨b, hb⟩, -⟩ | ⟨-, h⟩
  · exact absurd hb (hc b)
  · exact h

/-- `wait n` is a busy wait of command `c` with `n` samples taken, and `await n` takes its sample number `n`: the
ready wait before an op, or the read-back wait after a `SetMode`. -/
inductive BusyWait (c : Instr) (k : List Micro) (l : Locals) :
    (Byte → Wait) → (Nat → State → Progress) → Prop
  | ready (op : RadioOp) : BusyWait c k l (.ready op) (awaitReady c k l op)
  | readback (m : ChipMode) : BusyWait c k l (.readback m) (awaitReadback c k l m)

section
variable {c : Instr} {k : List Micro} {l : Locals} {wait : Byte → Wait} {await : Nat → State → Progress}
  (hw : BusyWait c k l wait await)
include hw

/-- A tick takes the next sample. -/
theorem BusyWait.resumes (n : Byte) (s : State) :
    resumeWait c k l (wait n) s = continueWith c k (await (n.toNat + 1) s) := by
  cases hw <;> rfl

/-- A busy sample below the ceiling. -/
theorem BusyWait.again {n : Nat} {s : State} {rest : List Bool} (hb : s.env.busy = true :: rest)
    (hn : n ≠ s.par.busyRetryMax) :
    await n s = .stop (suspend c k l (wait (BitVec.ofNat 8 n)) { s with env := { s.env with busy := rest } }) := by
  cases hw with
  | ready op => exact awaitReady_again c k l op hb hn
  | readback m => simp only [awaitReadback, sampleBusy_again hb hn]

/-- A busy sample at the ceiling. -/
theorem BusyWait.ceiling {n : Nat} {s : State} {rest : List Bool} (hb : s.env.busy = true :: rest)
    (hn : n = s.par.busyRetryMax) :
    await n s = transportFault c l { s with env := { s.env with busy := rest } } := by
  cases hw with
  | ready op => exact awaitReady_ceiling c k l op hb hn
  | readback m => simp only [awaitReadback, sampleBusy_ceiling hb hn]

/-- Ticks that each find the radio busy below the ceiling count samples. -/
theorem BusyWait.counts {s : State} {j : Nat} {rest : List Bool} (n : Nat)
    (hp : s.phase = .running c k l (wait (BitVec.ofNat 8 j))) (hj : j + n < s.par.busyRetryMax)
    (hmax : s.par.busyRetryMax ≤ 256) (hb : s.env.busy = List.replicate n true ++ rest) :
    ∃ g, ticks n s =
      { s with nowMs := s.nowMs + BitVec.ofNat 32 n, graceDone := g,
               phase := .running c k l (wait (BitVec.ofNat 8 (j + n))),
               env := { s.env with busy := rest } } := by
  cases hw with
  | ready op => exact ticks_busy n hp hj hmax hb
  | readback m => exact ticks_readback_busy n hp hj hmax hb

/-- A wait that finds its first `j` samples busy takes sample number `j + 1` at tick `j`. -/
theorem BusyWait.ticks_await {s : State} {j : Nat} {rest : List Bool} (hj : j < s.par.busyRetryMax)
    (hmax : s.par.busyRetryMax ≤ 256) (hb : s.env.busy = List.replicate j true ++ rest) :
    ∃ g p, ticks j (continueWith c k (await 1 s)) = continueWith c k (await (j + 1) (waited j g p rest s)) := by
  cases j with
  | zero =>
    refine ⟨s.graceDone, s.phase, ?_⟩
    have hsame : waited 0 s.graceDone s.phase rest s = s := by
      rw [waited, BitVec.add_zero, ← show s.env.busy = rest from hb]
    rw [hsame]
    rfl
  | succ j =>
    have hfirst : await 1 s = .stop (suspend c k l (wait (BitVec.ofNat 8 1))
        { s with env := { s.env with busy := List.replicate j true ++ rest } }) := hw.again hb (by omega)
    obtain ⟨g, hg⟩ := hw.counts (s := suspend c k l (wait (BitVec.ofNat 8 1))
        { s with env := { s.env with busy := List.replicate j true ++ rest } }) (j := 1) j rfl
      (by rw [Nat.add_comm]; exact hj) hmax rfl
    have hcount : (BitVec.ofNat 8 (1 + j)).toNat + 1 = j + 1 + 1 := by
      rw [BitVec.toNat_ofNat, Nat.mod_eq_of_lt (by omega), Nat.add_comm 1]
    rw [hfirst, continueWith, ticks_succ, hg, tickStep_running rfl, hw.resumes, advanceClock_eq, hcount]
    simp only [add_ofNat_succ]
    exact ⟨_, _, rfl⟩

/-- While the samples of a wait read busy below the ceiling the command stays suspended and the radio is left
alone. -/
theorem BusyWait.stays {s : State} {j n : Nat} {rest : List Bool} (hn : n < j)
    (hceil : n + 1 < s.par.busyRetryMax) (hmax : s.par.busyRetryMax ≤ 256)
    (hb : s.env.busy = List.replicate j true ++ rest) :
    (ticks n (continueWith c k (await 1 s))).phase ≠ .idle ∧
      (ticks n (continueWith c k (await 1 s))).radio = s.radio := by
  obtain ⟨d, rfl⟩ := Nat.exists_eq_add_of_lt hn
  obtain ⟨g, p, h⟩ := hw.ticks_await (rest := true :: (List.replicate d true ++ rest)) (Nat.lt_of_succ_lt hceil)
    hmax (by rw [hb, Nat.add_assoc, List.replicate_add, List.append_assoc]; rfl)
  rw [h, hw.again (s := waited n g p _ s) rfl (Nat.ne_of_lt hceil)]
  exact ⟨Phase.noConfusion, rfl⟩

/-- A wait all of whose samples read busy ends its command, PWR_TICK apart, with `E_TRANSPORT` at the sample
numbered `P_BUSY_RETRY_MAX` (60_exceptions.md rule R343). -/
theorem BusyWait.faults {s : State} {rest : List Bool} (hc : ∀ b, c ≠ .pwrTick b)
    (hmin : 1 ≤ s.par.busyRetryMax) (hmax : s.par.busyRetryMax ≤ 256)
    (hb : s.env.busy = List.replicate s.par.busyRetryMax true ++ rest) :
    ∃ g p, ticks (s.par.busyRetryMax - 1) (continueWith c k (await 1 s)) =
      answer 0x06 [] (recordTransportFault (waited (s.par.busyRetryMax - 1) g p rest s)) := by
  have hlast : s.par.busyRetryMax - 1 + 1 = s.par.busyRetryMax := Nat.sub_add_cancel hmin
  obtain ⟨g, p, h⟩ := hw.ticks_await (j := s.par.busyRetryMax - 1) (rest := true :: rest) (by omega) hmax
    (by rw [hb, ← hlast, List.replicate_succ', List.append_assoc]; rfl)
  refine ⟨g, p, ?_⟩
  rw [h, hw.ceiling (s := waited _ g p _ s) rfl hlast, transportFault_stops hc]
  rfl

end

/-! ## The first op of a run in variant B -/

section
variable {s : State} (hB : s.par.variant = .B) (c : Instr) (k : List Micro) (l : Locals)
include hB

/-- A line that issues `op` takes the first sample of its ready wait. -/
theorem runLines_awaits {m : Micro} {op : RadioOp} (hm : lineOp m l s = some op) :
    runLines c (m :: k) l s = continueWith c k (awaitReady c k l op 1 s) := by
  have hissue : radioIssue c k l op s = awaitReady c k l op 1 s := by simp only [radioIssue, hB]
  simp only [runLines, stepMicro_of_lineOp hm, hissue]
  cases awaitReady c k l op 1 s <;> rfl

/-- A body that goes through Standby first waits for that, or for the op after it. -/
theorem runLines_standby_awaits (op : RadioOp) :
    ∃ k' op', runLines c (.toStandby :: .radio op :: k) l s =
      continueWith c k' (awaitReady c k' l op' 1 s) := by
  by_cases hm : s.radioMode = .standby
  · refine ⟨k, op, ?_⟩
    rw [← runLines_awaits hB c k l (m := .radio op) rfl]
    simp only [runLines, stepMicro_toStandby, if_pos hm]
  · exact ⟨_, _, runLines_awaits hB c (.radio op :: k) l (m := .toStandby) (if_neg hm)⟩

end

/-- RADIO_INIT has cleared `configured` and PIPE_SEND has popped its packet when the first op is issued. -/
def atFirstOp (i : Instr) (s : State) : State :=
  { s with configured := if i = .radioInit then false else s.configured
           txq := if i = .pipeSend then s.txq.tail else s.txq }

/-- A command other than PWR_TICK that passes its checks comes to the ready wait of its first op. -/
theorem exec_issuesOp {i : Instr} {s : State} (hB : s.par.variant = .B) (hi : issuesOp i s) :
    (∀ b, i ≠ .pwrTick b) ∧
      ∃ k l op, exec i s = .next (continueWith i k (awaitReady i k l op 1 (atFirstOp i s))) := by
  cases i with
  | radioInit =>
    exact ⟨nofun, _, _, _, congrArg Host.Outcome.next
      (runLines_awaits (s := { s with configured := false }) hB _ _ _ (m := .radio .probe) rfl)⟩
  | radioSleep =>
    exact ⟨nofun, _, _, _, congrArg Host.Outcome.next
      (runLines_awaits hB _ _ _ (m := .radio (.setMode .sleep)) rfl)⟩
  | radioTransmit d =>
    obtain ⟨hd, hc⟩ := hi
    obtain ⟨k, op, h⟩ := runLines_standby_awaits hB (.radioTransmit d) _ { noLocals with data := d } .clearIrq
    exact ⟨nofun, k, _, op, (exec_radioTransmit hd hc).trans (congrArg Host.Outcome.next h)⟩
  | radioReceive m =>
    obtain ⟨hm, hp⟩ := hi
    exact ⟨nofun, _, _, _, (exec_radioReceive hm hp).trans (congrArg Host.Outcome.next
      (runLines_awaits hB _ _ _ (m := .radio .readFrame) rfl))⟩
  | radioWake =>
    obtain hm | ⟨hm, hc⟩ := hi
    · exact ⟨nofun, _, _, _, (exec_radioWake_sleep hm).trans (congrArg Host.Outcome.next
        (runLines_awaits hB _ _ _ (m := .radio (.setMode .standby)) rfl))⟩
    · exact ⟨nofun, _, _, _, (exec_radioWake_standby hm).trans (congrArg Host.Outcome.next
        ((wakeToReceive_configured hc).trans (runLines_awaits hB _ _ _ (m := .radio .clearIrq) rfl)))⟩
  | radioRxStart =>
    obtain ⟨hc, hm⟩ := hi
    obtain ⟨k, op, h⟩ := runLines_standby_awaits hB .radioRxStart _ noLocals .clearIrq
    exact ⟨nofun, k, _, op, (exec_radioRxStart hc hm).trans (congrArg Host.Outcome.next h)⟩
  | pipeSend =>
    obtain ⟨hc, hq⟩ := hi
    obtain ⟨p, q, hq⟩ := List.exists_cons_of_ne_nil hq
    obtain ⟨k, op, h⟩ := runLines_standby_awaits (s := { s with txq := q }) hB .pipeSend _
      { noLocals with data := frame p } .clearIrq
    refine ⟨nofun, k, { noLocals with data := frame p }, op,
      (exec_pipeSend hc hq).trans (congrArg Host.Outcome.next (h.trans ?_))⟩
    rw [atFirstOp, hq]
    rfl
  | pipeRecv =>
    exact ⟨nofun, _, _, _, (exec_pipeRecv hi).trans (congrArg Host.Outcome.next
      (runLines_awaits hB _ _ _ (m := .radio .readFrame) rfl))⟩
  | _ => exact hi.elim

/-- A command that has waited and then ended in a transport fault. -/
theorem faultsAt_of_ends {n j : Nat} {samples : List Bool} {r : Radio} {s t u : State}
    (hsuspended : ∀ m, m < n → (ticks m t).phase ≠ .idle)
    (hend : ∃ g p, ticks n t = answer 0x06 [] (recordTransportFault (waited j g p samples u)))
    (hsticky : u.sticky = s.sticky) (hmode : u.radioMode = s.radioMode ∧ u.rxPending = s.rxPending)
    (hradio : u.radio = r) : faultsAt n r s t := by
  obtain ⟨g, p, hend⟩ := hend
  refine ⟨hsuspended, ?_⟩
  rw [hend, ← hsticky, ← hmode.1, ← hmode.2, ← hradio]
  exact ⟨rfl, rfl, rfl, rfl, rfl, rfl⟩

/-! ## RADIO_SLEEP (rule R212) -/

/-- RADIO_SLEEP after `j` busy samples and a ready one: the op is performed at tick `j`, and its read-back begins. -/
theorem radioSleep_readback {s t : State} (hB : s.par.variant = .B) (hmax : s.par.busyRetryMax ≤ 256) {j : Nat}
    (hj : j < s.par.busyRetryMax) {rest : List Bool}
    (hb : s.env.busy = List.replicate j true ++ false :: rest) (ht : exec .radioSleep s = .next t) :
    (∀ n, n < j → (ticks n t).phase ≠ .idle) ∧
      ∃ g p u, u = recordOp (.setMode .sleep) (waited j g p rest s) ∧
        ticks j t = continueWith .radioSleep [.respondOk]
          (awaitReadback .radioSleep [.respondOk] noLocals .sleep 1 u) := by
  obtain rfl := Host.Outcome.next.inj ht
  have hw : BusyWait .radioSleep [.respondOk] noLocals _ _ := .ready (.setMode .sleep)
  rw [radioSleepBody, runLines_awaits hB _ _ _ (m := .radio (.setMode .sleep)) rfl]
  refine ⟨fun n hn => (hw.stays hn (by omega) hmax hb).1, ?_⟩
  obtain ⟨g, p, h⟩ := hw.ticks_await hj hmax hb
  exact ⟨g, p, _, rfl, by rw [h, awaitReady_ready (s := waited j g p _ s) _ _ _ _ rfl]; rfl⟩

/-- Suspended for `j` ticks and then for fewer than `n` more. -/
theorem suspended_add {t : State} {j n : Nat} (h1 : ∀ m, m < j → (ticks m t).phase ≠ .idle)
    (h2 : ∀ m, m < n → (ticks m (ticks j t)).phase ≠ .idle) :
    ∀ m, m < j + n → (ticks m t).phase ≠ .idle := by
  intro m hm
  by_cases hj : m < j
  · exact h1 m hj
  · obtain ⟨d, rfl⟩ := Nat.exists_eq_add_of_le (Nat.not_lt.1 hj)
    rw [ticks_add]
    exact h2 d (by omega)

section
variable {s t : State} (hB : s.par.variant = .B) (hmax : s.par.busyRetryMax ≤ 256)
  (ht : exec .radioSleep s = .next t) {rest : List Bool} {j : Nat} (hj : j < s.par.busyRetryMax)
include hB hmax ht hj

/-- Both waits of RADIO_SLEEP find a ready sample in time: the command completes. -/
theorem radioSleep_completes {r : Nat} (hr : r < s.par.busyRetryMax)
    (hb : s.env.busy = List.replicate j true ++ false :: (List.replicate r true ++ false :: rest)) :
    (∀ n, n < j + r → (ticks n t).phase ≠ .idle) ∧
      ∃ g p, ticks (j + r) t = answer 0x00 [] (modeSet .sleep (waited (j + r) g p rest s)) := by
  have hw : BusyWait .radioSleep [.respondOk] noLocals _ _ := .readback .sleep
  obtain ⟨hready, g, p, u, hu, h⟩ := radioSleep_readback hB hmax hj hb ht
  obtain ⟨hpar, hbusy⟩ : u.par = s.par ∧ u.env.busy = List.replicate r true ++ false :: rest := by
    rw [hu]; exact ⟨rfl, rfl⟩
  rw [← hpar] at hr hmax
  obtain ⟨g', p', hend⟩ := hw.ticks_await hr hmax hbusy
  refine ⟨suspended_add hready fun m hm => ?_, g', p', ?_⟩
  · rw [h]
    exact (hw.stays hm (by omega) hmax hbusy).1
  · rw [ticks_add, h, hend, awaitReadback, sampleBusy_ready (s := waited r g' p' _ u) _ rfl, hu,
      ← waited_waited j r g p _ g' p' rest s]
    rfl

/-- The ready wait of RADIO_SLEEP finds a ready sample in time and every sample of the read-back wait is busy: the
op has been performed when the command ends. -/
theorem radioSleep_readback_faults (hmin : 1 ≤ s.par.busyRetryMax)
    (hb : s.env.busy = List.replicate j true ++ false :: (List.replicate s.par.busyRetryMax true ++ rest)) :
    faultsAt (j + (s.par.busyRetryMax - 1)) { s.radio with ops := s.radio.ops ++ [.setMode .sleep] } s t := by
  have hw : BusyWait .radioSleep [.respondOk] noLocals _ _ := .readback .sleep
  obtain ⟨hready, g, p, u, hu, h⟩ := radioSleep_readback hB hmax hj hb ht
  obtain ⟨hpar, hbusy⟩ : u.par = s.par ∧
      u.env.busy = List.replicate s.par.busyRetryMax true ++ rest := by
    rw [hu]; exact ⟨rfl, rfl⟩
  rw [← hpar] at hmin hmax hbusy ⊢
  have hend := hw.faults nofun hmin hmax hbusy
  rw [← h, ← ticks_add] at hend
  refine faultsAt_of_ends (suspended_add hready fun m hm => ?_) hend (by rw [hu]; rfl)
    (by rw [hu]; exact ⟨rfl, rfl⟩) (by rw [hu]; rfl)
  rw [h]
  exact (hw.stays (j := u.par.busyRetryMax) (by omega) (Nat.add_lt_of_lt_sub hm) hmax hbusy).1

end

/-- Every sample of RADIO_SLEEP's ready wait is busy: the op has not been performed when the command ends. -/
theorem radioSleep_ready_faults {s t : State} (hB : s.par.variant = .B) (hmin : 1 ≤ s.par.busyRetryMax)
    (hmax : s.par.busyRetryMax ≤ 256) (ht : exec .radioSleep s = .next t) {rest : List Bool}
    (hb : s.env.busy = List.replicate s.par.busyRetryMax true ++ rest) :
    faultsAt (s.par.busyRetryMax - 1) s.radio s t := by
  obtain rfl := Host.Outcome.next.inj ht
  have hw : BusyWait .radioSleep [.respondOk] noLocals _ _ := .ready (.setMode .sleep)
  rw [radioSleepBody, runLines_awaits hB _ _ _ (m := .radio (.setMode .sleep)) rfl]
  exact faultsAt_of_ends (fun m hm => (hw.stays (j := s.par.busyRetryMax) (by omega) (Nat.add_lt_of_lt_sub hm)
    hmax hb).1) (hw.faults nofun hmin hmax hb) rfl ⟨rfl, rfl⟩ rfl

/-! ## The obligations -/

/-- Settles O42: RADIO_SLEEP wait by wait; every other command from its first op (`exec_issuesOp`); and the tick
that takes the last sample of a wait. -/
theorem readyWaitProceedsOrFaults : Obligations.ReadyWaitProceedsOrFaults := by
  unfold Obligations.ReadyWaitProceedsOrFaults
  refine ⟨?sleep, ?first, ?ceiling⟩
  case sleep =>
    intro s rest hB hmin hmax
    refine ⟨_, rfl, radioSleep_ready_faults hB hmin hmax rfl, fun j hj => ⟨fun r hr hb => ?_,
      radioSleep_readback_faults hB hmax rfl hj hmin⟩⟩
    obtain ⟨hsuspended, g, p, hend⟩ := radioSleep_completes hB hmax rfl hj hr hb
    refine ⟨hsuspended, ?_⟩
    rw [hend]
    exact ⟨rfl, rfl, rfl, rfl, rfl, rfl⟩
  case first =>
    intro s i rest hB hi hmin hmax hb
    obtain ⟨hne, k, l, op, h⟩ := exec_issuesOp hB hi
    have hw : BusyWait i k l _ _ := .ready op
    obtain ⟨g, p, hend⟩ := hw.faults (s := atFirstOp i s) hne hmin hmax hb
    exact ⟨_, h, fun n hn => hw.stays (s := atFirstOp i s) (j := s.par.busyRetryMax) (by omega)
      (Nat.add_lt_of_lt_sub hn) hmax hb, g, hend⟩
  case ceiling =>
    intro s sched c k l w n rest hsched hp hc hw hn hb
    obtain ⟨wait, await, hbusy, rfl⟩ : ∃ wait await, BusyWait c k l wait await ∧ w = wait n := by
      obtain ⟨op, rfl⟩ | ⟨m, rfl⟩ := hw
      · exact ⟨_, _, .ready op, rfl⟩
      · exact ⟨_, _, .readback m, rfl⟩
    rw [step_scheduled hsched, agentStep, tickStep_running (by exact hp), hbusy.resumes]
    generalize hu : advanceClock { s with env := { s.env with sched := sched } } = u
    have hub : u.env.busy = true :: rest := by rw [← hu, advanceClock_env]; exact hb
    have hun : n.toNat + 1 = u.par.busyRetryMax := by rw [← hu, advanceClock_par]; exact hn
    rw [hbusy.ceiling hub hun, transportFault_stops hc, ← hu, advanceClock_eq]
    rfl

/-! ## The transmit timeout (rules R202, R204) -/

section
variable {s : State} {c : Instr} {k : List Micro} {l : Locals} (hdone : s.radio.irqTxDone = false)
  (hp : s.phase = .running c k l (.tx s.nowMs)) (hT : s.par.txTimeoutMs < 2 ^ 32)
include hdone hp hT

/-- The transmit wait holds for fewer ticks than the timeout. -/
theorem txWait_holds {n : Nat} (hn : n < s.par.txTimeoutMs) :
    ∃ g, ticks n s = { s with nowMs := s.nowMs + BitVec.ofNat 32 n, graceDone := g } := by
  refine ticks_waiting hp n fun m g hm => resumeWait_tx_stays c k l hdone ?_
  rw [elapsedMs, elapsed_since_now _ (by omega)]
  exact Nat.lt_of_le_of_lt hm hn

/-- The tick that reaches the timeout begins the recovery. -/
theorem txWait_timesOut (h1 : 1 ≤ s.par.txTimeoutMs) :
    ∃ g, ticks s.par.txTimeoutMs s = runLines c transmitTimeoutBody l (recordTxTimeout
      { s with nowMs := s.nowMs + BitVec.ofNat 32 s.par.txTimeoutMs, graceDone := g }) := by
  obtain ⟨n, hn⟩ := Nat.exists_eq_add_of_le' h1
  obtain ⟨g, hg⟩ := txWait_holds hdone hp hT (n := n) (by omega)
  rw [hn, ticks_succ, hg, tickStep_running (by exact hp), advanceClock_eq]
  simp only [add_ofNat_succ]
  refine ⟨_, resumeWait_tx_timeout c k l hdone ?_⟩
  rw [elapsedMs, elapsed_since_now _ (by omega), hn]

end

/-- Settles O38: the wait holds, then the recovery runs in variant A, or faults in its first ready wait in variant
B. -/
theorem transmitTimeoutExact : Obligations.TransmitTimeoutExact := by
  unfold Obligations.TransmitTimeoutExact
  intro s c k l hdone hp h1 hT
  have holds : ∀ n, n < s.par.txTimeoutMs →
      (ticks n s).phase = s.phase ∧ (ticks n s).resp = s.resp ∧ (ticks n s).radio = s.radio := by
    intro n hn
    obtain ⟨g, hg⟩ := txWait_holds hdone hp hT hn
    rw [hg]
    exact ⟨rfl, rfl, rfl⟩
  obtain ⟨g, hg⟩ := txWait_timesOut hdone hp hT h1
  refine ⟨holds, fun hA => ?variantA, ?variantB⟩
  case variantA =>
    rw [hg, runLines_transmitTimeoutBody (by exact hA)]
    exact ⟨rfl, rfl, rfl, rfl, List.append_assoc _ _ _⟩
  case variantB =>
    rintro rest hB hc hmin hmax hb N rfl
    have hw : BusyWait c [.radio .clearIrq, .failTimeout] l _ _ := .ready (.setMode .standby)
    rw [transmitTimeoutBody, runLines_awaits (by exact hB) _ _ _ (m := .radio (.setMode .standby)) rfl] at hg
    generalize hu : recordTxTimeout
      { s with nowMs := s.nowMs + BitVec.ofNat 32 s.par.txTimeoutMs, graceDone := g } = u at hg
    obtain ⟨hpar, hbusy⟩ : u.par = s.par ∧ u.env.busy = List.replicate s.par.busyRetryMax true ++ rest := by
      rw [← hu]; exact ⟨rfl, hb⟩
    rw [← hpar] at hmin hmax hbusy
    obtain ⟨g', p', hend⟩ := hw.faults hc hmin hmax hbusy
    refine ⟨suspended_add (fun n hn => ?_) fun m hm => ?_, ?_⟩
    · rw [(holds n hn).1, hp]
      exact Phase.noConfusion
    · rw [← hpar] at hm
      rw [hg]
      exact (hw.stays (j := u.par.busyRetryMax) (by omega) (Nat.add_lt_of_lt_sub hm) hmax hbusy).1
    · rw [ticks_add, hg, ← hpar, hend, ← hu]
      exact ⟨rfl, rfl, rfl, rfl, rfl⟩

end Sys2Proof.Proofs.BusyWaits
end

section
/-! PROOFS. The invariants of the power controller of 43_power.md: the power state agrees with the sleep wait (rules
R255 to R258), an externally powered block stays out of sleep (rules R252, R259), and the boot grace window stays
closed (rule R251). -/

namespace Sys2Proof.Proofs.PowerInvariants

open Sys2Proof Sys2Proof.Machine Sys2Proof.Proofs.StateElements Sys2Proof.Proofs.AgentSteps

/-! ## Steps that touch the power controller -/

/-- The elements that the invariants of the power controller read are the same in `s` and `t`. -/
def powerAgrees (s t : State) : Prop :=
  t.phase = s.phase ∧ t.pwrState = s.pwrState ∧ t.extPowered = s.extPowered ∧ t.battSampled = s.battSampled

/-- From `s` to `t` a command has ended, the block is Active and the latch is left alone. -/
def endsActive (s t : State) : Prop :=
  t.phase = .idle ∧ t.pwrState = .active ∧ t.extPowered = s.extPowered ∧ t.battSampled = s.battSampled

/-- The clock, the debouncer, the host's read and the radio's events leave the power controller alone, so an
invariant of it that finds an Idle port Active is kept if the end of a wait, a wake, a reset and the start of a
command keep it. -/
theorem step_keeps_power {I : State → Prop} (hidle : ∀ s, I s → s.phase = .idle → s.pwrState = .active)
    (hcongr : ∀ s t, powerAgrees s t → I s → I t) (hends : ∀ s t, endsActive s t → I s → I t)
    (hwait : ∀ c k l w s, s.phase = .running c k l w → I s → I (resumeWait c k l w s))
    (hreset : ∀ s, I (resetBlock s))
    (hexec : ∀ i s t, I s → s.pwrState = .active → exec i s = .next t → I t) {s t : State} (hs : I s)
    (h : step s = .next t) : I t := by
  refine step_keeps (I := I) (fun s e => hcongr s _ ⟨rfl, rfl, rfl, rfl⟩) ?read ?tick ?trigger ?rx ?tx
    (fun s _ => hreset s)
    (fun i s t hs hp _ => hexec i _ t (hcongr s _ ⟨rfl, rfl, rfl, rfl⟩ hs) (hidle s hs hp))
    (fun s hs hp _ => hends s _ ⟨rfl, hidle s hs hp, rfl, rfl⟩ hs)
    (fun b s hs _ _ _ => hcongr s _ ⟨rfl, rfl, rfl, rfl⟩ hs) hs h
  case read =>
    intro s
    obtain ⟨r, e, h'⟩ := hostReadStep_frame s
    rw [h']
    exact hcongr s _ ⟨rfl, rfl, rfl, rfl⟩
  case tick =>
    exact tickStep_to (fun s => by rw [advanceClock_eq]; exact hcongr s _ ⟨rfl, rfl, rfl, rfl⟩)
      (fun _ h => h) hwait
  case trigger =>
    refine triggerStep_to (fun s => ?_) (fun _ _ _ _ s _ => hends s _ ⟨rfl, rfl, rfl, rfl⟩) (fun s _ => hreset s)
    obtain ⟨_, _, _, _, _, h'⟩ := debounceTrigger_frame s
    rw [h']
    exact hcongr s _ ⟨rfl, rfl, rfl, rfl⟩
  case rx =>
    intro f raw s
    obtain ⟨p, r, h'⟩ := rxDoneStep_frame f raw s
    rw [h']
    exact hcongr s _ ⟨rfl, rfl, rfl, rfl⟩
  case tx =>
    intro s
    obtain ⟨r, h'⟩ := txDoneStep_frame s
    rw [h']
    exact hcongr s _ ⟨rfl, rfl, rfl, rfl⟩

/-! ## What a run does to the power state -/

/-- How the lines `k` leave an Active block: Active outside the sleep waits, with no sleep entry still to run that
does not stand in `k`; or in the sleep wait of an entry that stands in `k`, in the power state of its kind. -/
def powerAfterLines (k : List Micro) (t : State) : Prop :=
  (sleepingIn t.phase = none ∧ t.pwrState = .active ∧
      ∀ kind, .enterSleep kind ∈ linesToRun t.phase → .enterSleep kind ∈ k) ∨
    ∃ kind, sleepingIn t.phase = some kind ∧ t.pwrState = sleepState kind ∧ .enterSleep kind ∈ k

theorem powerAfterLines_idle {k : List Micro} {t : State} (h : t.phase = .idle ∧ t.pwrState = .active) :
    powerAfterLines k t := by
  obtain ⟨hp, ha⟩ := h
  refine .inl ⟨by rw [hp]; rfl, ha, fun kind hk => ?_⟩
  rw [hp] at hk
  exact absurd hk List.not_mem_nil

/-- A command suspended outside the sleep waits with lines of `k` to run. -/
theorem powerAfterLines_suspend {c : Instr} {k k' : List Micro} {l : Locals} {w : Wait} {s : State}
    (h : k' ⊆ k ∧ sleepingIn (.running c k' l w) = none ∧ s.pwrState = .active) :
    powerAfterLines k (suspend c k' l w s) := by
  obtain ⟨hk, hw, ha⟩ := h
  exact .inl ⟨hw, ha, fun kind hmem => hk hmem⟩

theorem opCompleted_pwrState (op : RadioOp) (r : Radio) (e : Env) (s : State) :
    (opCompleted op r e s).pwrState = s.pwrState := by
  cases op <;> rfl

/-- One line of `k`, run while Active: only a sleep entry leaves Active. -/
theorem powerAfterLines_stepMicro {k k' : List Micro} {m : Micro} (hk : m :: k' ⊆ k) {s : State}
    (ha : s.pwrState = .active) (c : Instr) (l : Locals) :
    progressTo (fun u => u.pwrState = .active) (powerAfterLines k) (stepMicro c k' m l s) := by
  have hk' : k' ⊆ k := fun _ h => hk (List.mem_cons_of_mem m h)
  rcases stepMicro_cases c k' m l s with ⟨op, -, h'⟩ | h' | ⟨-, h'⟩ | ⟨-, h'⟩ | ⟨-, h'⟩ | ⟨-, h'⟩ |
    ⟨_, _, -, h'⟩ | ⟨_, -, h'⟩ | ⟨-, h'⟩ | ⟨kind, rfl, h'⟩ <;> rw [h']
  · refine radioIssue_to (fun r e => (opCompleted_pwrState op r e s).trans ha) ?_ (fun _ _ _ _ => ha)
      (fun _ _ _ _ => powerAfterLines_idle ⟨rfl, ha⟩)
    rintro r e w - - (rfl | ⟨m, -, rfl⟩) <;> exact powerAfterLines_suspend ⟨hk', rfl, ha⟩
  · exact ha
  · exact powerAfterLines_idle ⟨rfl, ha⟩
  · exact ha
  · exact powerAfterLines_suspend ⟨hk', rfl, ha⟩
  · exact powerAfterLines_idle ⟨rfl, ha⟩
  · exact ha
  · exact powerAfterLines_idle ⟨rfl, ha⟩
  · show powerAfterLines k (deliverFrame l s)
    rcases deliverFrame_cases l s with h' | ⟨-, h'⟩ | h' <;> rw [h'] <;> exact powerAfterLines_idle ⟨rfl, ha⟩
  · exact .inr ⟨kind, rfl, rfl, hk List.mem_cons_self⟩

theorem powerAfterLines_runLines {s : State} (ha : s.pwrState = .active) (c : Instr) (k : List Micro)
    (l : Locals) : powerAfterLines k (runLines c k l s) :=
  runLines_to (fun _ _ l _ hk hu => powerAfterLines_stepMicro hk.subset hu c l)
    (fun _ hu => powerAfterLines_idle ⟨rfl, hu⟩) l s ha

theorem powerAfterLines_continueWith {c : Instr} {k : List Micro} {p : Progress}
    (h : progressTo (fun u => u.pwrState = .active) (powerAfterLines k) p) :
    powerAfterLines k (continueWith c k p) :=
  continueWith_to (fun _ _ l _ hk hu => powerAfterLines_stepMicro hk.subset hu c l)
    (fun _ hu => powerAfterLines_idle ⟨rfl, hu⟩) p h

/-- Lines with no sleep entry among them leave the power state as any lines may. -/
theorem powerAfterLines_of_none {k k' : List Micro} {t : State} (h : powerAfterLines k t)
    (hk : ∀ kind, .enterSleep kind ∉ k) : powerAfterLines k' t := by
  obtain ⟨hp, ha, hlines⟩ | ⟨kind, -, -, hmem⟩ := h
  · exact .inl ⟨hp, ha, fun kind hmem => absurd (hlines kind hmem) (hk kind)⟩
  · exact absurd hmem (hk kind)

/-- Outside the sleep waits the power state agrees with the phase exactly if it is Active. -/
theorem powerMatchesPhase_awake_iff {s : State} (h : sleepingIn s.phase = none) :
    powerMatchesPhase s ↔ s.pwrState = .active := by
  simp only [powerMatchesPhase, h]

/-- In a sleep wait it agrees exactly if it is the power state of that kind. -/
theorem powerMatchesPhase_asleep_iff {s : State} {kind : SleepKind} (h : sleepingIn s.phase = some kind) :
    powerMatchesPhase s ↔ s.pwrState = sleepState kind := by
  cases kind <;> simp only [powerMatchesPhase, h, sleepState]

/-- A tick's evaluation of a wait: a sleep wait that goes on changes nothing; everything else leaves the power state
as the lines still to run may. -/
theorem powerAfterLines_resumeWait {s : State} {c : Instr} {k : List Micro} {l : Locals} {w : Wait}
    (hp : s.phase = .running c k l w) (hs : powerMatchesPhase s) :
    resumeWait c k l w s = s ∨ powerAfterLines k (resumeWait c k l w s) := by
  have awake : sleepingIn (.running c k l w) = none → s.pwrState = .active := fun hw =>
    (powerMatchesPhase_awake_iff (hp ▸ hw)).1 hs
  rcases resumeWait_cases c k l w s with ⟨op, n, rfl, h'⟩ | ⟨m, n, rfl, h'⟩ | ⟨t, rfl, h' | h' | h'⟩ |
    ⟨t, rfl, h' | h'⟩ | ⟨t, rfl, h' | h'⟩ <;> rw [h']
  · have ha := awake rfl
    refine .inr (powerAfterLines_continueWith (awaitReady_to (fun r e => (opCompleted_pwrState op r e s).trans ha)
      ?_ (fun _ _ _ => ha) (fun _ _ _ => powerAfterLines_idle ⟨rfl, ha⟩)))
    rintro r e w (⟨rfl, -⟩ | ⟨m, -, rfl, -⟩) <;>
      exact powerAfterLines_suspend ⟨List.Subset.refl k, rfl, ha⟩
  · have ha := awake rfl
    exact .inr (powerAfterLines_continueWith (awaitReadback_to (fun _ => ha)
      (fun _ _ => powerAfterLines_suspend ⟨List.Subset.refl k, rfl, ha⟩) (fun _ _ => ha)
      (fun _ _ => powerAfterLines_idle ⟨rfl, ha⟩)))
  · exact .inr (powerAfterLines_runLines (awake rfl) c k l)
  · exact .inr (powerAfterLines_of_none
      (powerAfterLines_runLines (s := recordTxTimeout s) (awake rfl) c transmitTimeoutBody l)
      (by simp [transmitTimeoutBody]))
  · exact .inl rfl
  · exact .inr (powerAfterLines_idle ⟨rfl, rfl⟩)
  · exact .inl rfl
  · exact .inr (powerAfterLines_idle ⟨rfl, rfl⟩)
  · exact .inl rfl

/-- A body starts in the power state that its command found; and unless it is that of a PWR_TICK that is not externally
powered, it starts with the latch as it was and holds no sleep entry. -/
theorem startsRun_power {i : Instr} {s u : State} {k : List Micro} (h : startsRun i s k u) :
    u.pwrState = s.pwrState ∧
      (u.extPowered = false ∨
        u.extPowered = s.extPowered ∧ u.battSampled = s.battSampled ∧ ∀ kind, .enterSleep kind ∉ k) := by
  obtain ⟨_, x, b, _, _, hu, -, hlatch, -⟩ := startsRun_frame h
  obtain ⟨-, -, -, hsleep, -⟩ := startsRun_lines h
  refine ⟨by rw [hu], ?_⟩
  by_cases hi : instrOpcode i = .pwrTick
  · cases i with
    | pwrTick b =>
      obtain ⟨_, -, -, hoff⟩ := h
      exact .inl hoff
    | _ => cases hi
  · obtain ⟨rfl, rfl⟩ := hlatch.resolve_right hi
    exact .inr ⟨by rw [hu], by rw [hu], fun kind hk => hi (hsleep ⟨kind, hk⟩)⟩

/-- A command begun while Active leaves the power state as some lines may; if it leaves the block externally powered,
these hold no sleep entry, and the latch has been sampled by it or was sampled before. -/
theorem powerAfterLines_exec {i : Instr} {s t : State} (ha : s.pwrState = .active) (h : exec i s = .next t) :
    ∃ k, powerAfterLines k t ∧ (t.extPowered = true →
      (∀ kind, .enterSleep kind ∉ k) ∧
        (t.extPowered = s.extPowered ∧ t.battSampled = s.battSampled ∨ t.battSampled = true)) := by
  rcases exec_cases i s with ⟨st, pl, u, hx, hu⟩ | ⟨k, l, u, hx, hu⟩
  · obtain rfl := Host.Outcome.next.inj (hx.symm.trans h)
    obtain ⟨-, -, -, -, -, -, hpwr, -, -, -, -, -, -, -, hlatch⟩ := hu
    exact ⟨[], powerAfterLines_idle ⟨rfl, hpwr.trans ha⟩,
      fun _ => ⟨fun _ => List.not_mem_nil, hlatch.imp_right And.right⟩⟩
  · obtain rfl := Host.Outcome.next.inj (hx.symm.trans h)
    obtain ⟨hpwr, hlatch⟩ := startsRun_power hu
    obtain ⟨-, -, -, -, -, -, hext, hbatt, -⟩ := outsideRun_eq (outsideRun_runLines i k l u)
    refine ⟨k, powerAfterLines_runLines (hpwr.trans ha) i k l, fun he => ?_⟩
    obtain hoff | ⟨hx, hb, hnone⟩ := hlatch
    · exact absurd (hoff.symm.trans (hext.symm.trans he)) Bool.false_ne_true
    · exact ⟨hnone, .inl ⟨hext.trans hx, hbatt.trans hb⟩⟩

/-! ## The power state and the sleep wait (rules R255 to R258) -/

theorem powerMatchesPhase_of_lines {k : List Micro} {t : State} (h : powerAfterLines k t) : powerMatchesPhase t := by
  obtain ⟨hp, ha, -⟩ | ⟨kind, hp, ha, -⟩ := h
  · exact (powerMatchesPhase_awake_iff hp).2 ha
  · exact (powerMatchesPhase_asleep_iff hp).2 ha

theorem powerMatchesPhase_idle {s : State} (hp : s.phase = .idle) : powerMatchesPhase s ↔ s.pwrState = .active :=
  powerMatchesPhase_awake_iff (by rw [hp]; rfl)

theorem powerMatchesPhase_congr {s t : State} (h : powerAgrees s t) (hs : powerMatchesPhase s) :
    powerMatchesPhase t := by
  obtain ⟨hp, ha, -⟩ := h
  unfold powerMatchesPhase
  rwa [hp, ha]

theorem powerMatchesPhase_resumeWait {s : State} {c : Instr} {k : List Micro} {l : Locals} {w : Wait}
    (hp : s.phase = .running c k l w) (hs : powerMatchesPhase s) : powerMatchesPhase (resumeWait c k l w s) := by
  obtain h | h := powerAfterLines_resumeWait hp hs
  · rwa [h]
  · exact powerMatchesPhase_of_lines h

theorem powerMatchesPhase_exec {i : Instr} {s t : State} (ha : s.pwrState = .active) (h : exec i s = .next t) :
    powerMatchesPhase t := by
  obtain ⟨k, hk, -⟩ := powerAfterLines_exec ha h
  exact powerMatchesPhase_of_lines hk

/-- Settles O53: of the steps that touch the power controller, a run of lines leaves Active only by suspending in a
sleep wait, and a sleep wait ends Active. -/
theorem powerStateMatchesPhase : Obligations.PowerStateMatchesPhase := by
  unfold Obligations.PowerStateMatchesPhase
  intro s t
  exact step_keeps_power (fun _ hs hp => (powerMatchesPhase_idle hp).1 hs) (fun _ _ => powerMatchesPhase_congr)
    (fun _ _ ⟨hp, ha, _⟩ _ => (powerMatchesPhase_idle hp).2 ha)
    (fun _ _ _ _ _ => powerMatchesPhase_resumeWait) (fun _ => rfl) (fun _ _ _ _ => powerMatchesPhase_exec)

/-! ## External power (rules R252, R259) -/

/-- Lines that hold no sleep entry where the block is externally powered leave it awake. -/
theorem extPoweredAwake_of_lines {k : List Micro} {t : State} (h : powerAfterLines k t)
    (ht : t.extPowered = true → t.battSampled = true ∧ ∀ kind, .enterSleep kind ∉ k) : extPoweredAwake t := by
  intro he
  obtain ⟨hb, hk⟩ := ht he
  obtain ⟨hp, ha, hlines⟩ | ⟨kind, -, -, hmem⟩ := h
  · exact ⟨hb, ha, hp, fun kind hmem => hk kind (hlines kind hmem)⟩
  · exact absurd hmem (hk kind)

/-- The evaluation of a wait leaves the latch alone, or resets it. -/
theorem resumeWait_latch (c : Instr) (k : List Micro) (l : Locals) (w : Wait) (s : State) :
    (resumeWait c k l w s).extPowered = s.extPowered ∧ (resumeWait c k l w s).battSampled = s.battSampled ∨
      (resumeWait c k l w s).extPowered = false := by
  rcases resumeWait_writes c k l w s with ⟨_, -, -, h⟩ | ⟨_, -, h⟩ | ⟨_, -, h, -⟩
  · rw [h]; exact .inr rfl
  · rw [h]; exact .inl ⟨rfl, rfl⟩
  · obtain ⟨-, -, -, -, -, -, hext, hbatt, -⟩ := outsideRun_eq h
    exact .inl ⟨hext, hbatt⟩

theorem extPoweredAwake_resumeWait {s : State} {c : Instr} {k : List Micro} {l : Locals} {w : Wait}
    (hp : s.phase = .running c k l w) (hm : powerMatchesPhase s) (hs : extPoweredAwake s) :
    extPoweredAwake (resumeWait c k l w s) := by
  obtain h | h := powerAfterLines_resumeWait hp hm
  · rwa [h]
  · refine extPoweredAwake_of_lines h fun he => ?_
    obtain ⟨hext, hbatt⟩ | hoff := resumeWait_latch c k l w s
    · obtain ⟨hb, -, -, hlines⟩ := hs (hext ▸ he)
      rw [hp] at hlines
      exact ⟨hbatt.trans hb, hlines⟩
    · exact absurd (hoff.symm.trans he) Bool.false_ne_true

theorem extPoweredAwake_exec {i : Instr} {s t : State} (ha : s.pwrState = .active) (hs : extPoweredAwake s)
    (h : exec i s = .next t) : extPoweredAwake t := by
  obtain ⟨k, hk, hlatch⟩ := powerAfterLines_exec ha h
  refine extPoweredAwake_of_lines hk fun he => ?_
  obtain ⟨hnone, ⟨hext, hbatt⟩ | hb⟩ := hlatch he
  · obtain ⟨hb, -⟩ := hs (hext ▸ he)
    exact ⟨hbatt.trans hb, hnone⟩
  · exact ⟨hb, hnone⟩

/-- The end of a command with the block Active. -/
theorem extPoweredAwake_endsActive {s t : State} (h : endsActive s t) (hs : extPoweredAwake s) :
    extPoweredAwake t := by
  obtain ⟨hp, ha, hext, hbatt⟩ := h
  intro he
  obtain ⟨hb, -⟩ := hs (hext ▸ he)
  rw [hp]
  exact ⟨hbatt.trans hb, ha, rfl, fun _ => List.not_mem_nil⟩

theorem extPoweredAwake_congr {s t : State} (h : powerAgrees s t) (hs : extPoweredAwake s) :
    extPoweredAwake t := by
  obtain ⟨hp, ha, hext, hbatt⟩ := h
  unfold extPoweredAwake
  rwa [hp, ha, hext, hbatt]

/-- Settles O52, with the invariant of O53 carried along: a command that latches `ext_powered` begins Active, and
only a PWR_TICK that finds it clear runs a sleep entry. -/
theorem extPoweredStaysAwake : Obligations.ExtPoweredStaysAwake := by
  unfold Obligations.ExtPoweredStaysAwake
  intro s t hm hs h
  exact (step_keeps_power (I := fun s => powerMatchesPhase s ∧ extPoweredAwake s)
    (fun _ ⟨hm, _⟩ hp => (powerMatchesPhase_idle hp).1 hm)
    (fun _ _ hst ⟨hm, hs⟩ => ⟨powerMatchesPhase_congr hst hm, extPoweredAwake_congr hst hs⟩)
    (fun _ _ hst ⟨_, hs⟩ => ⟨(powerMatchesPhase_idle hst.1).2 hst.2.1, extPoweredAwake_endsActive hst hs⟩)
    (fun _ _ _ _ _ hp ⟨hm, hs⟩ => ⟨powerMatchesPhase_resumeWait hp hm, extPoweredAwake_resumeWait hp hm hs⟩)
    (fun _ => ⟨rfl, nofun⟩)
    (fun _ _ _ ⟨_, hs⟩ ha hx => ⟨powerMatchesPhase_exec ha hx, extPoweredAwake_exec ha hs hx⟩)
    ⟨hm, hs⟩ h).2

/-! ## The grace window (rule R251) -/

/-- Every step but a reset leaves the time base and the grace latch alone, or advances the time base by one and runs
the comparator against the new time (20_memory.md rule R87). -/
theorem step_clock {s t : State} (hreset : resetsNext s = false) (h : step s = .next t) :
    t.par = s.par ∧
      (t.nowMs = s.nowMs ∧ t.graceDone = s.graceDone ∨
        t.nowMs = s.nowMs + 1 ∧
          t.graceDone = (s.graceDone || decide (s.par.bootGraceMs ≤ (s.nowMs + 1).toNat))) := by
  obtain ⟨a, e, hd⟩ := drawStep_frame s
  obtain ⟨hpar, hclock, -⟩ := stepsWriteOnlyTheirRegisters s t _ a hd hreset h _ rfl
  refine ⟨hpar, ?_⟩
  by_cases ha : a = .tick
  · subst ha
    obtain rfl := Host.Outcome.next.inj ((step_of_draw hd).symm.trans h)
    refine .inr ?_
    rcases tickStep_cases (s := { s with env := e })
      (fun _ _ _ _ => deepSleep_holds_of_tick (s := s) hd hreset) with ⟨-, h'⟩ | ⟨-, hout, -⟩
    · rw [h', advanceClock_eq]
      exact ⟨rfl, rfl⟩
    · rw [advanceClock_eq] at hout
      obtain ⟨-, -, hnow, -, -, -, -, -, hgrace, -⟩ := outsideRun_eq hout
      exact ⟨hnow, hgrace⟩
  · obtain ⟨hnow, hgrace⟩ := not_or.1 (mt hclock ha)
    exact .inl ⟨not_not.1 hnow, not_not.1 hgrace⟩

/-- A reset opens the window, unless its length is 0. -/
theorem graceClosed_resetWith (par : Params) (radio : Radio) (env : Env) :
    graceClosed (State.resetWith par radio env) :=
  fun h => decide_eq_true (Nat.le_zero.1 h)

/-- Settles O54: a reset starts the window afresh; every other step keeps `grace_done` set, and compares a time base
that it advances. -/
theorem graceStaysClosed : Obligations.GraceStaysClosed := by
  unfold Obligations.GraceStaysClosed
  refine ⟨fun s t hs h => ?closed, fun s t hs hreset h => ?latched⟩
  case closed =>
    cases hreset : resetsNext s with
    | true =>
      obtain rfl := Host.Outcome.next.inj ((step_resets hreset).symm.trans h)
      exact graceClosed_resetWith _ _ _
    | false =>
      obtain ⟨hpar, ⟨hnow, hgrace⟩ | ⟨hnow, hgrace⟩⟩ := step_clock hreset h <;> unfold graceClosed <;>
        rw [hpar, hnow, hgrace]
      · exact hs
      · intro hlen
        rw [decide_eq_true hlen, Bool.or_true]
  case latched =>
    obtain ⟨-, ⟨-, hgrace⟩ | ⟨-, hgrace⟩⟩ := step_clock hreset h <;> rw [hgrace, hs]
    rfl

end Sys2Proof.Proofs.PowerInvariants
end

section
/-! PROOFS. The sleep commands and waits of 43_power.md: what PWR_TICK decides (rules R252, R253), how the sleep waits
end (rules R256 to R258), and the sleep entry after a transport fault (60_exceptions.md rule R343). -/

namespace Sys2Proof.Proofs.SleepWake

open Sys2Proof Sys2Proof.Machine Sys2Proof.Proofs.VariantARuns Sys2Proof.Proofs.BusyWaits

/-! ## Sleep waits that no trigger ends (rules R256, R258) -/

section
variable {s : State} {c : Instr} {k : List Micro} {l : Locals} {w : Wait} {len : Nat}
  (hp : s.phase = .running c k l w) (hlen : len < 2 ^ 32)
  (hstays : ∀ u : State, u.par = s.par → elapsedMs s.nowMs u < len → resumeWait c k l w u = u)
include hp hlen hstays

/-- A wait begun now that stays while less than `len` milliseconds have passed holds for fewer than `len` ticks. -/
theorem timedWait_holds {n : Nat} (hn : n < len) :
    ∃ g, ticks n s = { s with nowMs := s.nowMs + BitVec.ofNat 32 n, graceDone := g } := by
  refine ticks_waiting hp n fun m g hm => hstays _ rfl ?_
  rw [elapsedMs, elapsed_since_now _ (by omega)]
  omega

/-- Tick number `len` evaluates it with exactly `len` milliseconds passed. -/
theorem timedWait_evaluated (h1 : 1 ≤ len) :
    ∃ u, ticks len s = resumeWait c k l w u ∧ u.par = s.par ∧ u.radio = s.radio ∧ u.env = s.env ∧
      u.nowMs = s.nowMs + BitVec.ofNat 32 len ∧ elapsedMs s.nowMs u = len := by
  obtain ⟨n, rfl⟩ := Nat.exists_eq_add_of_le' h1
  obtain ⟨g, hg⟩ := timedWait_holds hp hlen hstays (Nat.lt_succ_self n)
  rw [ticks_succ, hg, tickStep_running (by exact hp), advanceClock_eq]
  simp only [add_ofNat_succ]
  exact ⟨_, rfl, rfl, rfl, rfl, rfl, elapsed_since_now _ hlen⟩

end

/-- Settles O48: the wait holds until its timer fallback wakes the block. -/
theorem lightSleepEndsOnTimer : Obligations.LightSleepEndsOnTimer := by
  unfold Obligations.LightSleepEndsOnTimer
  intro s c k l hp h1 hlen
  have hstays : ∀ u : State, u.par = s.par → elapsedMs s.nowMs u < s.par.lightSleepMaxMs →
      resumeWait c k l (.sleep .light s.nowMs) u = u :=
    fun u hpar hu => resumeWait_light_stays c k l (hpar ▸ hu)
  refine ⟨fun n hn => ?_, ?_⟩
  · obtain ⟨g, hg⟩ := timedWait_holds hp hlen hstays hn
    rw [hg]
    exact ⟨rfl, rfl, rfl⟩
  · obtain ⟨u, h, hpar, -, -, hnow, helapsed⟩ := timedWait_evaluated hp hlen hstays h1
    rw [h, resumeWait_light_wakes c k l (by rw [hpar, helapsed]), ← hnow]
    exact ⟨rfl, rfl, rfl, rfl⟩

/-- Settles O49: the wait holds until its maximum duration resets the block. -/
theorem deepSleepEndsInReset : Obligations.DeepSleepEndsInReset := by
  unfold Obligations.DeepSleepEndsInReset
  intro s c k l hp h1 hlen
  have hstays : ∀ u : State, u.par = s.par → elapsedMs s.nowMs u < s.par.deepSleepMaxMs →
      resumeWait c k l (.sleep .deep s.nowMs) u = u :=
    fun u hpar hu => resumeWait_deep_stays c k l (hpar ▸ hu)
  refine ⟨fun n hn => ?_, ?_⟩
  · obtain ⟨g, hg⟩ := timedWait_holds hp hlen hstays hn
    rw [hg]
    exact ⟨rfl, rfl⟩
  · obtain ⟨u, h, hpar, hradio, henv, -, helapsed⟩ := timedWait_evaluated hp hlen hstays h1
    rw [h, resumeWait_deep_resets c k l (by rw [hpar, helapsed]), resetBlock, hpar, hradio, henv]

/-! ## Triggers in the sleep waits (rules R256, R258; 44_fifo_pipeline.md rules R282, R283) -/

/-- The debounce and push part of a trigger, as one expression. -/
theorem debounceTrigger_eq (s : State) :
    debounceTrigger s =
      if s.anyAccepted = false ∨ s.par.debounceMs ≤ (s.nowMs - s.lastAcceptMs).toNat then
        if s.evq.length < s.par.evqCap then
          { s with lastAcceptMs := s.nowMs, anyAccepted := true, evq := s.evq ++ [0x01] }
        else dropEvq { s with lastAcceptMs := s.nowMs, anyAccepted := true }
      else s := by
  simp only [← triggerAccepted_iff]
  rcases debounceTrigger_cases s with ⟨ha, h⟩ | ⟨ha, hroom, h⟩ | ⟨ha, hroom, h⟩ <;> rw [h]
  · rw [if_neg (by rw [ha]; exact Bool.false_ne_true)]
  · rw [if_pos ha, if_pos hroom]
  · rw [if_pos ha, if_neg hroom]

/-- A trigger in the DeepSleep wait. -/
theorem triggerStep_deep {s : State} {c : Instr} {k : List Micro} {l : Locals} {start : Word}
    (hp : s.phase = .running c k l (.sleep .deep start)) : triggerStep s = resetBlock s := by
  simp only [triggerStep, hp]

/-- A trigger in the LightSleep wait. -/
theorem triggerStep_light {s : State} {c : Instr} {k : List Micro} {l : Locals} {start : Word}
    (hp : s.phase = .running c k l (.sleep .light start)) :
    triggerStep s = debounceTrigger (lightWake 0x02 s) := by
  simp only [triggerStep, hp]

/-- Settles O50: the step is the trigger's; LightSleep wakes before it is debounced, DeepSleep resets instead. -/
theorem triggersWake : Obligations.TriggersWake := by
  unfold Obligations.TriggersWake
  intro s sched c k l start hsched
  rw [step_scheduled hsched, agentStep]
  refine ⟨fun hp => ?deep, fun hp u hu => ?light⟩
  case deep => rw [triggerStep_deep (by exact hp)]; rfl
  case light => rw [triggerStep_light (by exact hp), debounceTrigger_eq, hu]; rfl

/-! ## PWR_TICK (rules R252, R253, R255) -/

/-- The latch, as one update. -/
theorem sampleBattery_eq (b : Byte) (s : State) :
    sampleBattery b s =
      { s with extPowered := if s.battSampled then s.extPowered else decide (b = 0), battSampled := true } := by
  rcases sampleBattery_cases b s with ⟨hs, h⟩ | ⟨hs, h⟩ <;> rw [h, hs]
  · rw [if_pos rfl, ← hs]
  · rw [if_neg Bool.false_ne_true]

@[simp] theorem sampleBattery_par (b : Byte) (s : State) : (sampleBattery b s).par = s.par := by
  rw [sampleBattery_eq]
@[simp] theorem sampleBattery_graceDone (b : Byte) (s : State) : (sampleBattery b s).graceDone = s.graceDone := by
  rw [sampleBattery_eq]
@[simp] theorem sampleBattery_nowMs (b : Byte) (s : State) : (sampleBattery b s).nowMs = s.nowMs := by
  rw [sampleBattery_eq]
@[simp] theorem sampleBattery_lastActivityMs (b : Byte) (s : State) :
    (sampleBattery b s).lastActivityMs = s.lastActivityMs := by
  rw [sampleBattery_eq]
@[simp] theorem sampleBattery_radio (b : Byte) (s : State) : (sampleBattery b s).radio = s.radio := by
  rw [sampleBattery_eq]
@[simp] theorem sampleBattery_env (b : Byte) (s : State) : (sampleBattery b s).env = s.env := by
  rw [sampleBattery_eq]

/-- A PWR_TICK leaves the block on battery if it was latched so, or if it latches a charge other than 0. -/
theorem sampleBattery_onBattery {b : Byte} {s : State}
    (h : if s.battSampled = true then s.extPowered = false else b ≠ 0) : (sampleBattery b s).extPowered = false := by
  rcases sampleBattery_cases b s with ⟨hs, h'⟩ | ⟨hs, h'⟩ <;> rw [h'] <;> simpa [hs] using h

/-- The four outcomes, in priority order. -/
theorem powerDecision_eq (b : Byte) (s : State) :
    powerDecision b s =
      if s.extPowered = true ∨ s.graceDone = false then answer 0x00 [0x00] s
      else if b ≠ 0 ∧ b.toNat < s.par.critPct then runLines (.pwrTick b) (enterSleepBody .deep) noLocals s
      else if s.par.idleTimeoutMs ≤ (s.nowMs - s.lastActivityMs).toNat then
        runLines (.pwrTick b) (enterSleepBody .light) noLocals s
      else answer 0x00 [0x01] s := by
  have hheld : (s.extPowered || !s.graceDone) = true ↔ s.extPowered = true ∨ s.graceDone = false := by
    rw [Bool.or_eq_true, Bool.not_eq_true']
  simp only [powerDecision, hheld]
  rfl

section
variable {b : Byte} {s : State} (hbatt : s.extPowered = false) (hgrace : s.graceDone = true)
include hbatt hgrace

/-- On battery after the grace window a critical charge enters DeepSleep. -/
theorem powerDecision_deep (hcrit : b ≠ 0 ∧ b.toNat < s.par.critPct) :
    powerDecision b s = runLines (.pwrTick b) (enterSleepBody .deep) noLocals s := by
  rw [powerDecision_eq, if_neg (by simp [hbatt, hgrace]), if_pos hcrit]

/-- On battery after the grace window, the charge not critical, the idle timeout enters LightSleep. -/
theorem powerDecision_light (hcharged : b = 0 ∨ s.par.critPct ≤ b.toNat)
    (hidle : s.par.idleTimeoutMs ≤ (s.nowMs - s.lastActivityMs).toNat) :
    powerDecision b s = runLines (.pwrTick b) (enterSleepBody .light) noLocals s := by
  have hnot : ¬(b ≠ 0 ∧ b.toNat < s.par.critPct) := fun ⟨hb, hcrit⟩ => hcharged.elim hb (Nat.not_le.2 hcrit)
  rw [powerDecision_eq, if_neg (by simp [hbatt, hgrace]), if_neg hnot, if_pos hidle]

end

/-- The last line of a sleep entry. -/
theorem runLines_enterSleep (c : Instr) (k : List Micro) (l : Locals) (kind : SleepKind) (s : State) :
    runLines c (.enterSleep kind :: k) l s =
      suspend c k l (.sleep kind s.nowMs) { s with pwrState := sleepState kind } := rfl

/-- A sleep entry in variant A: the radio is in Sleep when the command suspends. -/
theorem runLines_enterSleepBody {s : State} (hA : s.par.variant = .A) (c : Instr) (l : Locals)
    (kind : SleepKind) :
    runLines c (enterSleepBody kind) l s =
      suspend c [] l (.sleep kind s.nowMs) { modeSet .sleep s with pwrState := sleepState kind } := by
  rw [enterSleepBody, runLines_setMode hA, runLines_enterSleep]
  rfl

/-- Settles O47: the latch, then the decision, each as one expression. -/
theorem pwrTickDecision : Obligations.PwrTickDecision := by
  unfold Obligations.PwrTickDecision
  intro s b hA u hu asleep hasleep
  rw [← sampleBattery_eq] at hu
  subst hu
  have hentry : ∀ kind, runLines (.pwrTick b) (enterSleepBody kind) noLocals (sampleBattery b s) =
      asleep kind (sleepState kind) := by
    intro kind
    rw [runLines_enterSleepBody (by rw [sampleBattery_par, hA]), hasleep, ← sampleBattery_nowMs b s,
      ← sampleBattery_radio b s]
    rfl
  have hexec : exec (.pwrTick b) s = .next (powerDecision b (sampleBattery b s)) := rfl
  rw [hexec, powerDecision_eq, hentry, hentry, sampleBattery_par, sampleBattery_graceDone, sampleBattery_nowMs,
    sampleBattery_lastActivityMs]
  rfl

/-! ## Sleep entry in variant B (60_exceptions.md rule R343) -/

/-- `u` is `s` in the course of a sleep entry, `n` ticks after PWR_TICK began: still awake and unanswered, the
sticky bits and the mode unchanged, and the radio become `r`. -/
def enteringSleep (n : Nat) (r : Radio) (s u : State) : Prop :=
  u.par = s.par ∧ u.nowMs = s.nowMs + BitVec.ofNat 32 n ∧ u.pwrState = s.pwrState ∧ u.resp = s.resp ∧
    u.sticky = s.sticky ∧ u.radioMode = s.radioMode ∧ u.rxPending = s.rxPending ∧ u.radio = r

theorem enteringSleep_sampleBattery (b : Byte) (s : State) : enteringSleep 0 s.radio s (sampleBattery b s) := by
  rw [sampleBattery_eq]
  exact ⟨rfl, (BitVec.add_zero _).symm, rfl, rfl, rfl, rfl, rfl, rfl⟩

theorem enteringSleep.waited {n : Nat} {r : Radio} {s u : State} (h : enteringSleep n r s u) (m : Nat) (g : Bool)
    (p : Phase) (samples : List Bool) : enteringSleep (n + m) r s (BusyWaits.waited m g p samples u) := by
  obtain ⟨hpar, hnow, hrest⟩ := h
  refine ⟨hpar, ?_, hrest⟩
  rw [BusyWaits.waited, hnow, BitVec.add_assoc, BitVec.ofNat_add]

theorem enteringSleep.recordOp {n : Nat} {r : Radio} {s u : State} (h : enteringSleep n r s u) (op : RadioOp) :
    enteringSleep n { r with ops := r.ops ++ [op] } s (Machine.recordOp op u) := by
  obtain ⟨hpar, hnow, hpwr, hresp, hsticky, hmode, hpend, rfl⟩ := h
  exact ⟨hpar, hnow, hpwr, hresp, hsticky, hmode, hpend, rfl⟩

/-- `u` is suspended, in the power state of `s` and with no response but that of `s`. -/
def waitsAwake (s u : State) : Prop := u.phase ≠ .idle ∧ u.pwrState = s.pwrState ∧ u.resp = s.resp

/-- What holds for `j` ticks and then for fewer than `n` more holds for fewer than `j + n`. -/
theorem forall_ticks_add {I : State → Prop} {t : State} {j n : Nat} (h1 : ∀ m, m < j → I (ticks m t))
    (h2 : ∀ m, m < n → I (ticks m (ticks j t))) : ∀ m, m < j + n → I (ticks m t) := by
  intro m hm
  by_cases hj : m < j
  · exact h1 m hj
  · obtain ⟨d, rfl⟩ := Nat.exists_eq_add_of_le (Nat.not_lt.1 hj)
    rw [ticks_add]
    exact h2 d (by omega)

/-- While the samples of a wait in a sleep entry read busy below the ceiling the block waits awake. -/
theorem waitsAwake_of_busy {c : Instr} {k : List Micro} {l : Locals} {wait : Byte → Wait}
    {await : Nat → State → Progress} (hw : BusyWait c k l wait await) {i : Nat} {r : Radio} {s u : State}
    (hu : enteringSleep i r s u) {j n : Nat} {rest : List Bool} (hn : n < j) (hceil : n + 1 < s.par.busyRetryMax)
    (hmax : s.par.busyRetryMax ≤ 256) (hb : u.env.busy = List.replicate j true ++ rest) :
    waitsAwake s (ticks n (continueWith c k (await 1 u))) := by
  obtain ⟨hpar, -, hpwr, hresp, -⟩ := hu
  rw [← hpar] at hceil hmax
  obtain ⟨d, rfl⟩ := Nat.exists_eq_add_of_lt hn
  obtain ⟨g, p, h⟩ := hw.ticks_await (rest := true :: (List.replicate d true ++ rest)) (Nat.lt_of_succ_lt hceil)
    hmax (by rw [hb, Nat.add_assoc, List.replicate_add, List.append_assoc]; rfl)
  rw [h, hw.again (s := BusyWaits.waited n g p _ u) rfl (Nat.ne_of_lt hceil)]
  exact ⟨Phase.noConfusion, hpwr, hresp⟩

/-- A sleep entry that has come to a busy wait at tick `i` and finds all its samples busy faults at the sample
numbered `P_BUSY_RETRY_MAX`, and goes on into the sleep. -/
theorem sleepsFaultedAt_of_busy {b : Byte} {kind : SleepKind} {l : Locals} {wait : Byte → Wait}
    {await : Nat → State → Progress} (hw : BusyWait (.pwrTick b) [.enterSleep kind] l wait await)
    {s t u : State} {i : Nat} {r : Radio} {rest : List Bool} (hu : enteringSleep i r s u)
    (hmin : 1 ≤ s.par.busyRetryMax) (hmax : s.par.busyRetryMax ≤ 256)
    (hb : u.env.busy = List.replicate s.par.busyRetryMax true ++ rest)
    (hwaits : ∀ m, m < i → waitsAwake s (ticks m t))
    (ht : ticks i t = continueWith (.pwrTick b) [.enterSleep kind] (await 1 u)) :
    sleepsFaultedAt (i + (s.par.busyRetryMax - 1)) kind b r s t := by
  have hpar : u.par = s.par := hu.1
  have hlast : s.par.busyRetryMax - 1 + 1 = s.par.busyRetryMax := Nat.sub_add_cancel hmin
  refine ⟨forall_ticks_add hwaits fun m hm => ?_, ?_⟩
  · rw [ht]
    exact waitsAwake_of_busy hw hu (j := s.par.busyRetryMax) (by omega) (Nat.add_lt_of_lt_sub hm) hmax hb
  · obtain ⟨g, p, hend⟩ := hw.ticks_await (s := u) (j := s.par.busyRetryMax - 1) (rest := true :: rest)
      (by rw [hpar]; omega) (by rw [hpar]; exact hmax)
      (by rw [hb, ← hlast, List.replicate_succ', List.append_assoc]; rfl)
    obtain ⟨-, hnow, hpwr, hresp, hsticky, hmode, hpend, hradio⟩ := hu.waited (s.par.busyRetryMax - 1) g p rest
    rw [ticks_add, ht, hend, hw.ceiling (s := BusyWaits.waited _ g p _ u) rfl (hlast.trans (by rw [← hpar]; rfl)),
      transportFault, continueWith, runLines_enterSleep]
    refine ⟨⟨l, by rw [← hnow]; rfl⟩, by cases kind <;> rfl, by rw [← hsticky]; rfl, hmode, hpend, hradio, hresp⟩

/-- A PWR_TICK that enters a sleep in variant B comes to the ready wait of its one op. -/
theorem exec_pwrTick_awaits {s : State} {b : Byte} {kind : SleepKind} (hB : s.par.variant = .B)
    (h : powerDecision b (sampleBattery b s) =
      runLines (.pwrTick b) (enterSleepBody kind) noLocals (sampleBattery b s)) :
    exec (.pwrTick b) s = .next (continueWith (.pwrTick b) [.enterSleep kind]
      (awaitReady (.pwrTick b) [.enterSleep kind] noLocals (.setMode .sleep) 1 (sampleBattery b s))) := by
  have hB' : (sampleBattery b s).par.variant = .B := by rw [sampleBattery_par, hB]
  rw [← runLines_awaits hB' (.pwrTick b) _ noLocals (m := .radio (.setMode .sleep)) rfl]
  exact congrArg Host.Outcome.next h

/-- Settles O51: PWR_TICK waits in the ready wait, which faults; or, after `j` busy samples and a ready one, in the
read-back wait, which faults. -/
theorem sleepEntrySurvivesTransportFault : Obligations.SleepEntrySurvivesTransportFault := by
  unfold Obligations.SleepEntrySurvivesTransportFault
  intro s b kind rest hB hmin hmax hgrace hext hkind
  have hbatt := sampleBattery_onBattery hext
  rw [← sampleBattery_graceDone b s] at hgrace
  have hentry : powerDecision b (sampleBattery b s) =
      runLines (.pwrTick b) (enterSleepBody kind) noLocals (sampleBattery b s) := by
    cases kind with
    | deep => exact powerDecision_deep hbatt hgrace (by rwa [sampleBattery_par])
    | light =>
      obtain ⟨hcharged, hidle⟩ := hkind
      exact powerDecision_light hbatt hgrace (by rwa [sampleBattery_par])
        (by rwa [sampleBattery_par, sampleBattery_nowMs, sampleBattery_lastActivityMs])
  have hu := enteringSleep_sampleBattery b s
  have hready : BusyWait (.pwrTick b) [.enterSleep kind] noLocals _ _ := .ready (.setMode .sleep)
  refine ⟨_, exec_pwrTick_awaits hB hentry, fun hb => ?ready, fun j hj hb => ?readback⟩
  all_goals rw [← sampleBattery_env b s] at hb
  case ready =>
    rw [← Nat.zero_add (s.par.busyRetryMax - 1)]
    exact sleepsFaultedAt_of_busy hready hu hmin hmax hb (fun m hm => absurd hm (Nat.not_lt_zero m)) rfl
  case readback =>
    obtain ⟨g, p, h⟩ := hready.ticks_await (by rw [hu.1]; exact hj) (by rw [hu.1]; exact hmax) hb
    have hperformed := (hu.waited j g p (List.replicate s.par.busyRetryMax true ++ rest)).recordOp (.setMode .sleep)
    rw [Nat.zero_add] at hperformed
    refine sleepsFaultedAt_of_busy (l := noLocals) (.readback .sleep) hperformed hmin hmax rfl
      (fun m hm => waitsAwake_of_busy hready hu hm (Nat.lt_of_le_of_lt hm hj) hmax hb) ?_
    rw [h, awaitReady_ready (s := BusyWaits.waited j g p _ _) _ _ _ _ rfl]
    rfl

end Sys2Proof.Proofs.SleepWake
end

section
/-! PROOFS. The FIFOs and the pipeline of 44_fifo_pipeline.md: the trigger's debounce window (rules R282 to R284), the
commands of the event and receive FIFOs (rules R290, R291, R299), and what the pipeline builds and receives (rules
R293, R297, R298). -/

namespace Sys2Proof.Proofs.FifoPipeline

open Sys2Proof Sys2Proof.Machine Sys2Proof.Proofs.Codec Sys2Proof.Proofs.VariantARuns Sys2Proof.Proofs.SleepWake

/-! ## Trigger debounce (rules R282 to R284) -/

theorem debounceTrigger_rejected {s : State} (h : triggerAccepted s = false) : debounceTrigger s = s :=
  if_neg (by rw [h]; exact Bool.false_ne_true)

/-- An accepted trigger stamps the time, whether its event is pushed or dropped. -/
theorem debounceTrigger_accepted {s : State} (h : triggerAccepted s = true) :
    (debounceTrigger s).lastAcceptMs = s.nowMs ∧ (debounceTrigger s).anyAccepted = true ∧
      (debounceTrigger s).nowMs = s.nowMs ∧ (debounceTrigger s).par = s.par ∧
      (debounceTrigger s).phase = s.phase := by
  rcases debounceTrigger_cases s with ⟨hrejected, -⟩ | ⟨-, -, hpushed⟩ | ⟨-, -, hdropped⟩
  · exact absurd (h.symm.trans hrejected) Bool.noConfusion
  · rw [hpushed]; exact ⟨rfl, rfl, rfl, rfl, rfl⟩
  · rw [hdropped]; exact ⟨rfl, rfl, rfl, rfl, rfl⟩

/-- Inside the window that follows an accepted trigger every trigger is rejected. -/
theorem triggerAccepted_inWindow {s : State} (hany : s.anyAccepted = true)
    (hwindow : (s.nowMs - s.lastAcceptMs).toNat < s.par.debounceMs) : triggerAccepted s = false := by
  rw [← Bool.not_eq_true, triggerAccepted_iff, hany]
  exact fun h => h.elim Bool.noConfusion (Nat.not_le.2 hwindow)

/-- Settles O14: the ticks move only the time base and the grace latch, so at the second trigger the time since the
stamp is `n`. -/
theorem secondTriggerInWindowRejected : Obligations.SecondTriggerInWindowRejected := by
  unfold Obligations.SecondTriggerInWindowRejected
  intro s n hidle haccepted hwindow hwrap
  rw [triggerStep_awake (by rw [hidle]; rfl)]
  obtain ⟨hstamp, hany, hnow, hpar, hphase⟩ := debounceTrigger_accepted haccepted
  obtain ⟨g, hticks⟩ := ticks_idle (hphase.trans hidle) n
  refine ⟨hstamp, ?_⟩
  rw [hticks, triggerStep_awake (by simp only [hphase, hidle]; rfl)]
  refine debounceTrigger_rejected (triggerAccepted_inWindow hany ?_)
  rw [hstamp, hnow, hpar, elapsed_since_now _ hwrap]
  exact hwindow

/-- Settles O13: outside the sleep waits a trigger is the debounce and push alone. -/
theorem triggerDebouncedAndPushed : Obligations.TriggerDebouncedAndPushed := by
  unfold Obligations.TriggerDebouncedAndPushed
  intro s sched hsched hawake
  rw [step_scheduled hsched, agentStep, triggerStep_awake (by exact hawake), debounceTrigger_eq]
  rfl

/-! ## Commands of the event and receive FIFOs (rules R290, R291, R299) -/

theorem exec_evqPush (e : Byte) (s : State) :
    exec (.evqPush e) s = .next
      (if s.evq.length < s.par.evqCap then answer 0x00 [] { s with evq := s.evq ++ [e] }
       else answer 0x04 [] (dropEvq s)) := by
  simp only [exec, execEvqPush]
  rcases pushEvq_cases e s with ⟨hroom, h⟩ | ⟨hfull, h⟩
  · rw [h, if_pos hroom]; rfl
  · rw [h, if_neg hfull]; rfl

theorem exec_evqPop_empty {s : State} (h : s.evq = []) : exec .evqPop s = .next (answer 0x03 [] s) := by
  simp only [exec, execEvqPop, h]; rfl

theorem exec_evqPop_cons {s : State} {e : Byte} {q : List Byte} (h : s.evq = e :: q) :
    exec .evqPop s = .next (answer 0x00 [e] { s with evq := q }) := by
  simp only [exec, execEvqPop, h]; rfl

theorem exec_rxqPop_empty {s : State} (h : s.rxq = []) : exec .rxqPop s = .next (answer 0x03 [] s) := by
  simp only [exec, execRxqPop, h]; rfl

theorem exec_rxqPop_cons {s : State} {p : Packet} {q : List Packet} (h : s.rxq = p :: q) :
    exec .rxqPop s = .next (answer 0x00 (frame p) { s with rxq := q }) := by
  simp only [exec, execRxqPop, h]; rfl

/-- Settles O30, command by command. -/
theorem fifoCommandResults : Obligations.FifoCommandResults := by
  unfold Obligations.FifoCommandResults
  intro s
  exact ⟨fun e => exec_evqPush e s, exec_evqPop_empty, fun _ _ => exec_evqPop_cons, exec_rxqPop_empty,
    fun _ _ => exec_rxqPop_cons⟩

/-! ## PIPE_BUILD (rule R293) -/

theorem exec_pipeBuild_empty {s : State} (b : Byte) (h : s.evq = []) :
    exec (.pipeBuild b) s = .next (answer 0x03 [] s) := by
  simp only [exec, execPipeBuild, h]; rfl

/-- The activity is stamped before the push, so a drop keeps the stamp. -/
theorem exec_pipeBuild_cons {s : State} {e : Byte} {q : List Byte} (b : Byte) (h : s.evq = e :: q) :
    exec (.pipeBuild b) s = .next
      (if s.txq.length < s.par.txqCap then
        answer 0x00 [] { notify { s with evq := q } with
          txq := s.txq ++ [buildPacket s.par s.cfg.nodeId s.nowMs e b] }
       else answer 0x04 [] (dropTxq (notify { s with evq := q }))) := by
  simp only [exec, execPipeBuild, h]
  rcases pushTxq_cases (buildPacket s.par s.cfg.nodeId s.nowMs e b) (notify { s with evq := q }) with
    ⟨hroom, hpush⟩ | ⟨hfull, hpush⟩
  · rw [hpush, if_pos (by exact hroom)]; rfl
  · rw [hpush, if_neg (by exact hfull)]; rfl

/-- Settles O31: no event, or one built into a packet with its CRC. -/
theorem pipeBuildResult : Obligations.PipeBuildResult := by
  unfold Obligations.PipeBuildResult
  exact fun s b => ⟨exec_pipeBuild_empty b, fun _ _ => exec_pipeBuild_cons b⟩

/-! ## PIPE_RECV (rules R297, R298) -/

/-- The payload of a frame of 9 bytes is its first 7. -/
theorem payload_unframe {f : List Byte} (h : f.length = 9) : payload (unframe f) = f.take 7 :=
  calc payload (unframe f) = (frame (unframe f)).take 7 := (List.take_left' rfl).symm
    _ = f.take 7 := by rw [frame_unframe h]

/-- The last line of PIPE_RECV: a valid packet is queued or dropped, anything else is an integrity failure. -/
theorem deliverFrame_eq (l : Locals) (s : State) :
    deliverFrame l s =
      if l.n = 9 ∧ packetValid s.par (unframe l.frame) = true then
        if s.rxq.length < s.par.rxqCap then answer 0x00 [] { s with rxq := s.rxq ++ [unframe l.frame] }
        else answer 0x04 [] (dropRxq s)
      else integrityFail s := by
  unfold deliverFrame
  by_cases hlen : l.n = 9
  · simp only [ne_eq, hlen, not_true_eq_false, if_false, true_and]
    by_cases hvalid : packetValid s.par (unframe l.frame) = true
    · rw [if_pos hvalid, if_pos hvalid]
      rcases pushRxq_cases (unframe l.frame) s with ⟨hroom, h⟩ | ⟨hfull, h⟩
      · rw [h, if_pos hroom]; rfl
      · rw [h, if_neg hfull]; rfl
    · rw [if_neg hvalid, if_neg hvalid]
  · rw [if_pos hlen, if_neg fun h => hlen h.left]

/-- PIPE_RECV allows 255 bytes, so its count is 9 for exactly the frames of 9 bytes; of those the CRC is taken over
the first 7. -/
theorem receivedValid_iff (par : Params) (f : List Byte) :
    (min f.length (255 : Byte).toNat = 9 ∧ packetValid par (unframe f) = true) ↔
      (f.length = 9 ∧ crc16 par (f.take 7) = (unframe f).crc) := by
  have hcount : min f.length (255 : Byte).toNat = 9 ↔ f.length = 9 := by
    rw [show (255 : Byte).toNat = 255 from rfl]; omega
  rw [hcount]
  exact and_congr_right fun hlen => by rw [packetValid_iff, payload_unframe hlen]

/-- Settles O32: the body of RADIO_RECEIVE leaves the state `u`, from which the frame is delivered. -/
theorem pipeRecvResult : Obligations.PipeRecvResult := by
  unfold Obligations.PipeRecvResult
  intro s hA hpending u hu
  have hreceived : modeSet .rxCont
      (irqCleared { recordOp .readFrame s with lastRssi := rssiDbm s.par s.radio.rawRssi }) = u := by
    rw [modeSet_irqCleared, hu]
    simp [recordOp, modeAfter]
  rw [exec_pipeRecv hpending, runLines_receiveBody hA, hreceived]
  refine congrArg Host.Outcome.next ((deliverFrame_eq _ u).trans ?_)
  subst hu
  exact if_congr (receivedValid_iff s.par s.radio.frame) rfl rfl

end Sys2Proof.Proofs.FifoPipeline
end

section
/-! PROOFS. The commands of 45_control.md: the bits that STATUS_READ shows and STATUS_CLEAR clears (rules R321,
R322), the configuration registers and the counters by index (rules R323, R325, R326), and the commands that only
answer an element of the state. -/

namespace Sys2Proof.Proofs.Control

open Sys2Proof Sys2Proof.Machine Sys2Proof.Proofs.StateElements

/-! ## STATUS_READ (rule R321) -/

/-- Bits 15:14 of STATUS are reserved (10_state.md rule R33). -/
theorem statusWord_reservedField (s : State) : (statusWord s).extractLsb' 14 2 = 0#2 := by
  refine BitVec.eq_of_getLsbD_eq fun i hi => ?_
  rw [BitVec.getLsbD_extractLsb', statusWord_getLsbD]
  obtain rfl | rfl : i = 0 ∨ i = 1 := by omega
  all_goals simp

theorem variantBit_eq (v : Variant) : variantBit v = decide (v = .B) := by
  cases v <;> rfl

/-- Settles O23: the word answered is STATUS, whose one-bit fields are its bits and whose two-bit fields are the
codes of the modes. -/
theorem statusReadFields : Obligations.StatusReadFields := by
  unfold Obligations.StatusReadFields
  intro s
  refine ⟨statusWord s, rfl, ?_⟩
  rw [statusWord_modeField, statusWord_pwrField, ← variantBit_eq]
  simp only [statusWord_getLsbD]
  refine ⟨?_, ?_, ?_, ?_, ?_, ?_, ?_, ?_, ?mode, ?pwr, ?_, ?_, statusWord_reservedField s⟩
  case mode => cases s.radioMode <;> rfl
  case pwr => cases s.pwrState <;> rfl
  all_goals simp

/-! ## STATUS_CLEAR (rule R322) -/

/-- 0x003C is the mask of the W1C bits of STATUS, which are bits 2 to 5 (10_state.md rule R33). -/
theorem stickyMask_getLsbD {i : Nat} (hi : i < 16) :
    (0x003C : Half).getLsbD i = decide (i = 2 ∨ i = 3 ∨ i = 4 ∨ i = 5) := by
  decide +revert

/-- Clearing sticky bits acts on the word: the named bits 2 to 5 become 0, and all other bits stay. -/
theorem statusWord_clearSticky (s : State) (mask : Half) :
    statusWord { s with sticky := clearSticky mask s.sticky } = statusWord s &&& ~~~(mask &&& 0x003C) := by
  refine BitVec.eq_of_getLsbD_eq fun i hi => ?_
  rw [BitVec.getLsbD_and, BitVec.getLsbD_not, BitVec.getLsbD_and, stickyMask_getLsbD hi, statusWord_getLsbD,
    statusWord_getLsbD]
  by_cases hsticky : i = 2 ∨ i = 3 ∨ i = 4 ∨ i = 5
  · rcases hsticky with rfl | rfl | rfl | rfl <;> simp [clearSticky]
  · obtain ⟨h2, h3, h4, h5⟩ : i ≠ 2 ∧ i ≠ 3 ∧ i ≠ 4 ∧ i ≠ 5 := by omega
    simp [h2, h3, h4, h5, hi]

/-- Settles O25: the bits left are those of `clearSticky`, whose effect on the word `statusWord_clearSticky` says. -/
theorem statusClearMask : Obligations.StatusClearMask := by
  unfold Obligations.StatusClearMask
  exact fun s mask => ⟨clearSticky mask s.sticky, rfl, statusWord_clearSticky s mask⟩

/-! ## CFG_WRITE (rule R326) -/

/-- The bits of register `i` that CFG_WRITE keeps. -/
def keptBits (i : Byte) : Word := if i = 1 then 0xFFFFFFFF else if i = 5 then 0x0000FFFF else 0x000000FF

/-- A value cut to `n` bits and read back at 32 bits is the value masked to its low `n` bits. -/
theorem setWidth_setWidth_eq_and {n : Nat} (hn : n ≤ 32) (v : Word) :
    (v.setWidth n).setWidth 32 = v &&& BitVec.ofNat 32 (2 ^ n - 1) := by
  have hpow : 2 ^ n ≤ 2 ^ 32 := Nat.pow_le_pow_right (by decide) hn
  have hpos : 0 < 2 ^ n := Nat.two_pow_pos n
  refine BitVec.eq_of_toNat_eq ?_
  rw [BitVec.toNat_and, BitVec.toNat_ofNat, Nat.mod_eq_of_lt (show 2 ^ n - 1 < 2 ^ 32 by omega),
    Nat.and_two_pow_sub_one_eq_mod, BitVec.toNat_setWidth, BitVec.toNat_setWidth]
  exact Nat.mod_eq_of_lt ((Nat.mod_lt _ hpos).trans_le hpow)

/-- The seven registers that CFG_WRITE writes. -/
theorem writable_cases {i : Byte} (h : i.toNat < 7) :
    i = 0 ∨ i = 1 ∨ i = 2 ∨ i = 3 ∨ i = 4 ∨ i = 5 ∨ i = 6 := by
  bv_omega

theorem cfgWrite_writable {i : Byte} (h : i.toNat < 7) (v : Word) (r : CfgRegs) :
    ∃ r', cfgWrite i v r = some r' := by
  rcases writable_cases h with rfl | rfl | rfl | rfl | rfl | rfl | rfl <;> exact ⟨_, rfl⟩

theorem cfgWrite_refused {i : Byte} (h : 7 ≤ i.toNat) (v : Word) (r : CfgRegs) : cfgWrite i v r = none := by
  unfold cfgWrite
  split
  case h_8 => rfl
  all_goals omega

theorem cfgRead_cfgWrite_same {i : Byte} {v : Word} {r r' : CfgRegs} (h : cfgWrite i v r = some r')
    (p : Params) : cfgRead p i r' = some (v &&& keptBits i) := by
  have hi : i.toNat < 7 := by
    by_contra hge
    exact absurd (h.symm.trans (cfgWrite_refused (Nat.le_of_not_lt hge) v r)) (Option.some_ne_none r')
  have hbyte : (v.setWidth 8).setWidth 32 = v &&& 0x000000FF := setWidth_setWidth_eq_and (by decide) v
  have hhalf : (v.setWidth 16).setWidth 32 = v &&& 0x0000FFFF := setWidth_setWidth_eq_and (by decide) v
  have hword : v = v &&& 0xFFFFFFFF := BitVec.and_allOnes.symm
  rcases writable_cases hi with rfl | rfl | rfl | rfl | rfl | rfl | rfl
  all_goals obtain rfl := Option.some.inj h
  · exact congrArg some hbyte
  · exact congrArg some hword
  · exact congrArg some hbyte
  · exact congrArg some hbyte
  · exact congrArg some hbyte
  · exact congrArg some hhalf
  · exact congrArg some hbyte

/-- A write to one register changes only the field that no other index reads. -/
theorem cfgRead_cfgWrite_other {i j : Byte} {v : Word} {r r' : CfgRegs} (h : cfgWrite i v r = some r')
    (hji : j ≠ i) (p : Params) : cfgRead p j r' = cfgRead p j r := by
  have hne : j.toNat ≠ i.toNat := mt BitVec.eq_of_toNat_eq hji
  unfold cfgWrite at h
  split at h
  case h_8 => exact absurd h.symm (Option.some_ne_none r')
  all_goals
    obtain rfl := Option.some.inj h
    unfold cfgRead
    split
  all_goals first | rfl | omega

theorem exec_cfgWrite_writable {i : Byte} {v : Word} {s : State} {r : CfgRegs}
    (h : cfgWrite i v s.cfg = some r) :
    exec (.cfgWrite i v) s = .next (answer 0x00 [] { s with cfg := r }) := by
  simp only [exec, execCfgWrite, h, respond_ok]

theorem exec_cfgWrite_refused {i : Byte} (h : 7 ≤ i.toNat) (v : Word) (s : State) :
    exec (.cfgWrite i v) s = .next (answer 0x02 [] s) := by
  simp only [exec, execCfgWrite, cfgWrite_refused h]; rfl

/-- Settles O27: an index below 7 names a register that is written; a read of it gives the kept bits, and a read
of any other index does not see the write. -/
theorem cfgWriteThenRead : Obligations.CfgWriteThenRead := by
  unfold Obligations.CfgWriteThenRead
  refine fun s i v => ⟨fun hi => ?_, fun hi => exec_cfgWrite_refused hi v s⟩
  obtain ⟨r, hr⟩ := cfgWrite_writable hi v s.cfg
  exact ⟨r, exec_cfgWrite_writable hr, cfgRead_cfgWrite_same hr s.par,
    fun j hj => cfgRead_cfgWrite_other hr hj s.par⟩

/-! ## CNT_READ and CFG_READ (rules R323, R325) -/

theorem counterRead_unmapped {i : Byte} (h : 3 < i.toNat) (n : Counters) : counterRead i n = none := by
  unfold counterRead
  split
  case h_5 => rfl
  all_goals omega

theorem cfgRead_unmapped {i : Byte} (h : 7 < i.toNat) (p : Params) (r : CfgRegs) : cfgRead p i r = none := by
  unfold cfgRead
  split
  case h_9 => rfl
  all_goals omega

theorem exec_cntRead_mapped {i : Byte} {s : State} {v : Word} (h : counterRead i s.counters = some v) :
    exec (.cntRead i) s = .next (answer 0x00 (be32 v) s) := by
  simp only [exec, execCntRead, h, respond_ok]

theorem exec_cntRead_unmapped {i : Byte} (h : 3 < i.toNat) (s : State) :
    exec (.cntRead i) s = .next (answer 0x02 [] s) := by
  simp only [exec, execCntRead, counterRead_unmapped h]; rfl

theorem exec_cfgRead_mapped {i : Byte} {s : State} {v : Word} (h : cfgRead s.par i s.cfg = some v) :
    exec (.cfgRead i) s = .next (answer 0x00 (be32 v) s) := by
  simp only [exec, execCfgRead, h, respond_ok]

theorem exec_cfgRead_unmapped {i : Byte} (h : 7 < i.toNat) (s : State) :
    exec (.cfgRead i) s = .next (answer 0x02 [] s) := by
  simp only [exec, execCfgRead, cfgRead_unmapped h]; rfl

theorem be32_setWidth_byte (b : Byte) : be32 (b.setWidth 32) = [0x00, 0x00, 0x00, b] := by
  have hhigh : ∀ k, 8 ≤ k → (b.setWidth 32).extractLsb' k 8 = 0x00#8 := fun k hk => by
    refine BitVec.eq_of_getLsbD_eq fun i hi => ?_
    rw [BitVec.getLsbD_extractLsb', BitVec.getLsbD_setWidth, BitVec.getLsbD_of_ge b (k + i) (by omega)]
    simp
  have hlow : (b.setWidth 32).extractLsb' 0 8 = b := by
    refine BitVec.eq_of_getLsbD_eq fun i hi => ?_
    rw [BitVec.getLsbD_extractLsb', BitVec.getLsbD_setWidth, Nat.zero_add]
    simp [hi, show i < 32 by omega]
  simp only [be32, hlow, hhigh 8 (by decide), hhigh 16 (by decide), hhigh 24 (by decide)]
  rfl

/-- Settles O26, index by index: a mapped index reads the value that `counterRead` or `cfgRead` gives, and the
hard-wired register 0x07 is one byte wide. -/
theorem indexReadResults : Obligations.IndexReadResults := by
  unfold Obligations.IndexReadResults
  intro s
  refine ⟨exec_cntRead_mapped rfl, exec_cntRead_mapped rfl, exec_cntRead_mapped rfl, exec_cntRead_mapped rfl,
    fun _ h => exec_cntRead_unmapped h s, exec_cfgRead_mapped rfl, exec_cfgRead_mapped rfl,
    exec_cfgRead_mapped rfl, exec_cfgRead_mapped rfl, exec_cfgRead_mapped rfl, exec_cfgRead_mapped rfl,
    exec_cfgRead_mapped rfl, ?payloadLen, fun _ _ => rfl, fun _ h => exec_cfgRead_unmapped h s⟩
  case payloadLen =>
    rw [← be32_setWidth_byte]
    exact exec_cfgRead_mapped rfl

/-! ## Commands that answer one element (rules R207, R211, R250, R292, R320, R324) -/

/-- Settles O22: the body of each command is its response, PWR_NOTIFY's after the activity stamp. -/
theorem simpleCommandResults : Obligations.SimpleCommandResults := by
  unfold Obligations.SimpleCommandResults
  intro s
  exact ⟨rfl, rfl, rfl, rfl, rfl, rfl⟩

end Sys2Proof.Proofs.Control
end

section
/-! PROOFS. No error stops the machine (60_exceptions.md rule R344): a command answers or runs its lines, each agent's
step is a state of the block, and so every step answers a next state. -/

namespace Sys2Proof.Proofs.Progress

open Sys2Proof Sys2Proof.Machine

theorem goesOn_of_eq_next {o : Host.Outcome State Fault Refusal} {t : State} (h : o = .next t) : goesOn o :=
  ⟨t, h⟩

/-- A command ends within the step, an error's response included, or runs its lines up to a suspension point. -/
theorem goesOn_exec (i : Instr) (s : State) : goesOn (exec i s) := by
  rcases exec_cases i s with ⟨_, _, _, hanswers, -⟩ | ⟨_, _, _, hruns, -⟩
  · exact goesOn_of_eq_next hanswers
  · exact goesOn_of_eq_next hruns

/-- An illegal opcode is answered (30_encoding.md rule R118), and an incomplete command waits (rule R114). -/
theorem goesOn_acceptByte (b : Byte) (s : State) : goesOn (acceptByte b s) := by
  rcases acceptByte_cases b s with ⟨-, i, _, -, hexec⟩ | ⟨-, -, hillegal⟩ | ⟨-, hkept⟩
  · rw [hexec]
    exact goesOn_exec i _
  · exact goesOn_of_eq_next hillegal
  · exact goesOn_of_eq_next hkept

/-- A closed port takes no byte (30_encoding.md rule R112). -/
theorem goesOn_hostWriteStep (s : State) : goesOn (hostWriteStep s) := by
  rcases hostWriteStep_cases s with ⟨-, b, e, hopen⟩ | ⟨-, hclosed⟩
  · rw [hopen]
    exact goesOn_acceptByte b _
  · exact goesOn_of_eq_next hclosed

/-- Only the host's write can execute a command; each other agent's step is a function on the states. -/
theorem goesOn_agentStep (a : AgentStep) (s : State) : goesOn (agentStep a s) := by
  cases a with
  | hostWrite => exact goesOn_hostWriteStep s
  | hostRead => exact goesOn_of_eq_next rfl
  | tick => exact goesOn_of_eq_next rfl
  | trigger => exact goesOn_of_eq_next rfl
  | rxDone f raw => exact goesOn_of_eq_next rfl
  | txDone => exact goesOn_of_eq_next rfl
  | powerOnReset => exact goesOn_of_eq_next rfl

/-- Settles O10: every step is some agent's, and a command goes on by `exec_cases`. -/
theorem everyStepGoesOn : Obligations.EveryStepGoesOn := by
  unfold Obligations.EveryStepGoesOn
  refine ⟨fun s => ?_, goesOn_exec⟩
  obtain ⟨a, e, h⟩ := step_is_agentStep s
  rw [h]
  exact goesOn_agentStep a _

end Sys2Proof.Proofs.Progress
end

section
/-! PROOFS. What a reset leaves (70_reset_and_hazards.md rules R380 to R382): the reset values, in which every invariant
of the block holds. -/

namespace Sys2Proof.Proofs.Reset

open Sys2Proof Sys2Proof.Machine Sys2Proof.Proofs.StateElements Sys2Proof.Proofs.CommandPort
  Sys2Proof.Proofs.RadioInvariants Sys2Proof.Proofs.PowerInvariants

/-- The reset input, next on the schedule, resets. -/
theorem step_powerOnReset {s : State} {sched : List AgentStep} (h : s.env.sched = .powerOnReset :: sched) :
    step s = .next (State.resetWith s.par s.radio { s.env with sched := sched }) :=
  step_scheduled h

/-- Register 0x07 is no element of the block: it reads the parameter, whatever the registers hold (10_state.md rule
R50). -/
theorem cfgRead_payloadLen (p : Params) (r : CfgRegs) : cfgRead p 0x07 r = some (p.payloadLen.setWidth 32) := rfl

/-- Settles O58: the reset input by the state it leaves, element by element, every other reset by `step_resets`. -/
theorem resetValues : Obligations.ResetValues := by
  unfold Obligations.ResetValues
  exact ⟨fun _ _ h => ⟨_, step_powerOnReset h, cfgRead_payloadLen _ _, rfl⟩, fun _ => step_resets⟩

/-! ## The invariants -/

/-- A reset does nothing to a block that has just been reset. -/
theorem resetBlock_resetWith (p : Params) (radio : Radio) (env : Env) :
    resetBlock (State.resetWith p radio env) = State.resetWith p radio env := rfl

theorem powerMatchesPhase_resetBlock (s : State) : powerMatchesPhase (resetBlock s) :=
  (powerMatchesPhase_idle rfl).2 rfl

/-- A reset clears the latch of 43_power.md rule R252. -/
theorem extPoweredAwake_resetBlock (s : State) : extPoweredAwake (resetBlock s) :=
  fun he => absurd he Bool.false_ne_true

theorem busySamplesBounded_resetBlock (s : State) : busySamplesBounded (resetBlock s) :=
  busySamplesBounded_idle rfl

theorem graceClosed_resetBlock (s : State) : graceClosed (resetBlock s) :=
  graceClosed_resetWith s.par s.radio s.env

/-- Settles O59: each invariant holds of whatever a reset leaves, and a reset state is one. -/
theorem invariantsHoldAtReset : Obligations.InvariantsHoldAtReset := by
  unfold Obligations.InvariantsHoldAtReset
  rintro p radio env _ rfl
  rw [← resetBlock_resetWith p radio env]
  exact ⟨fifosBounded_resetBlock _, pendingOnlyInReceive_resetBlock _, portQuiet_resetBlock _,
    powerMatchesPhase_resetBlock _, extPoweredAwake_resetBlock _, busySamplesBounded_resetBlock _,
    variantAModes_resetBlock _, graceClosed_resetBlock _⟩

end Sys2Proof.Proofs.Reset
end
